-- ==== Sys2Proof/Word.lean ====
section
/-! DEFINITION. The words of the machine: 00_scope.md R6 (`XLEN` = 32) and R7 (a word is 32 bits, a byte 8). -/

namespace Sys2Proof

/-- A 32-bit word: a general register, an address, an instruction (00_scope.md R6, R7). -/
abbrev Word := BitVec 32

/-- An 8-bit byte, the unit of memory (00_scope.md R7, 20_memory.md R70). -/
abbrev Byte := BitVec 8

end Sys2Proof
end

