-- ==== Sys2Proof/Syntax.lean ====
section
/-! DEFINITION. The instructions as syntax: one constructor of `Instr` per row of spec/opcode_table.json, in the
table's order, with the operands the row's fields carry (30_encoding.md R103 to R120, R127, R128). Operands stand in
the order the assembler line writes them (R132); where an operand lies in the word is said in Decode. -/

namespace Sys2Proof

/-- The fifteen conditions of 40_conditions_operand2.md R140. The sixteenth code, 1111, is no condition (R126). -/
inductive Cond where
  | eq | ne | cs | cc | mi | pl | vs | vc | hi | ls | ge | lt | gt | le | al
deriving DecidableEq, Repr

/-- A register operand: R0 to R14, or R15, the program counter (10_state.md R31). -/
inductive Reg where
  | r (n : Fin 15)
  | pc
deriving DecidableEq, Repr

/-- The shift field of 30_encoding.md R106; `ror` with an immediate amount of 0 is RRX (R122). -/
inductive Shift where
  | lsl | lsr | asr | ror
deriving DecidableEq, Repr

/-- The block-transfer modes, the `P U` bits of 30_encoding.md R118. -/
inductive BlockMode where
  | da | ia | db | ib
deriving DecidableEq, Repr

/-- The instructions. `c` is the condition; `sf` the S bit; `up` the U bit (add the offset); `wb` the W bit (write
the base back); `rot` and `imm` the two halves of `#32_Bit_Immed`; `amt` a shift amount field; `mask` the PSR field
mask; `list` a register list, bit `i` for R`i`. -/
inductive Instr where
  /-- MOV, operand 2 an immediate: R170, format R103. -/
  | movImm (c : Cond) (sf : Bool) (rd : Reg) (rot : BitVec 4) (imm : BitVec 8)
  /-- MOV, operand 2 a register shifted by an immediate: R170, format R104. -/
  | movShiftImm (c : Cond) (sf : Bool) (rd rm : Reg) (sh : Shift) (amt : BitVec 5)
  /-- MOV, operand 2 a register shifted by a register: R170, format R105. -/
  | movShiftReg (c : Cond) (sf : Bool) (rd rm : Reg) (sh : Shift) (rs : Reg)
  /-- MVN, operand 2 an immediate: R171, format R103. -/
  | mvnImm (c : Cond) (sf : Bool) (rd : Reg) (rot : BitVec 4) (imm : BitVec 8)
  /-- MVN, operand 2 a register shifted by an immediate: R171, format R104. -/
  | mvnShiftImm (c : Cond) (sf : Bool) (rd rm : Reg) (sh : Shift) (amt : BitVec 5)
  /-- MVN, operand 2 a register shifted by a register: R171, format R105. -/
  | mvnShiftReg (c : Cond) (sf : Bool) (rd rm : Reg) (sh : Shift) (rs : Reg)
  /-- ADD, operand 2 an immediate: R190, format R103. -/
  | addImm (c : Cond) (sf : Bool) (rd rn : Reg) (rot : BitVec 4) (imm : BitVec 8)
  /-- ADD, operand 2 a register shifted by an immediate: R190, format R104. -/
  | addShiftImm (c : Cond) (sf : Bool) (rd rn rm : Reg) (sh : Shift) (amt : BitVec 5)
  /-- ADD, operand 2 a register shifted by a register: R190, format R105. -/
  | addShiftReg (c : Cond) (sf : Bool) (rd rn rm : Reg) (sh : Shift) (rs : Reg)
  /-- ADC, operand 2 an immediate: R191, format R103. -/
  | adcImm (c : Cond) (sf : Bool) (rd rn : Reg) (rot : BitVec 4) (imm : BitVec 8)
  /-- ADC, operand 2 a register shifted by an immediate: R191, format R104. -/
  | adcShiftImm (c : Cond) (sf : Bool) (rd rn rm : Reg) (sh : Shift) (amt : BitVec 5)
  /-- ADC, operand 2 a register shifted by a register: R191, format R105. -/
  | adcShiftReg (c : Cond) (sf : Bool) (rd rn rm : Reg) (sh : Shift) (rs : Reg)
  /-- SUB, operand 2 an immediate: R192, format R103. -/
  | subImm (c : Cond) (sf : Bool) (rd rn : Reg) (rot : BitVec 4) (imm : BitVec 8)
  /-- SUB, operand 2 a register shifted by an immediate: R192, format R104. -/
  | subShiftImm (c : Cond) (sf : Bool) (rd rn rm : Reg) (sh : Shift) (amt : BitVec 5)
  /-- SUB, operand 2 a register shifted by a register: R192, format R105. -/
  | subShiftReg (c : Cond) (sf : Bool) (rd rn rm : Reg) (sh : Shift) (rs : Reg)
  /-- SBC, operand 2 an immediate: R193, format R103. -/
  | sbcImm (c : Cond) (sf : Bool) (rd rn : Reg) (rot : BitVec 4) (imm : BitVec 8)
  /-- SBC, operand 2 a register shifted by an immediate: R193, format R104. -/
  | sbcShiftImm (c : Cond) (sf : Bool) (rd rn rm : Reg) (sh : Shift) (amt : BitVec 5)
  /-- SBC, operand 2 a register shifted by a register: R193, format R105. -/
  | sbcShiftReg (c : Cond) (sf : Bool) (rd rn rm : Reg) (sh : Shift) (rs : Reg)
  /-- RSB, operand 2 an immediate: R194, format R103. -/
  | rsbImm (c : Cond) (sf : Bool) (rd rn : Reg) (rot : BitVec 4) (imm : BitVec 8)
  /-- RSB, operand 2 a register shifted by an immediate: R194, format R104. -/
  | rsbShiftImm (c : Cond) (sf : Bool) (rd rn rm : Reg) (sh : Shift) (amt : BitVec 5)
  /-- RSB, operand 2 a register shifted by a register: R194, format R105. -/
  | rsbShiftReg (c : Cond) (sf : Bool) (rd rn rm : Reg) (sh : Shift) (rs : Reg)
  /-- RSC, operand 2 an immediate: R195, format R103. -/
  | rscImm (c : Cond) (sf : Bool) (rd rn : Reg) (rot : BitVec 4) (imm : BitVec 8)
  /-- RSC, operand 2 a register shifted by an immediate: R195, format R104. -/
  | rscShiftImm (c : Cond) (sf : Bool) (rd rn rm : Reg) (sh : Shift) (amt : BitVec 5)
  /-- RSC, operand 2 a register shifted by a register: R195, format R105. -/
  | rscShiftReg (c : Cond) (sf : Bool) (rd rn rm : Reg) (sh : Shift) (rs : Reg)
  /-- CMP, operand 2 an immediate: R230, format R103. -/
  | cmpImm (c : Cond) (rn : Reg) (rot : BitVec 4) (imm : BitVec 8)
  /-- CMP, operand 2 a register shifted by an immediate: R230, format R104. -/
  | cmpShiftImm (c : Cond) (rn rm : Reg) (sh : Shift) (amt : BitVec 5)
  /-- CMP, operand 2 a register shifted by a register: R230, format R105. -/
  | cmpShiftReg (c : Cond) (rn rm : Reg) (sh : Shift) (rs : Reg)
  /-- CMN, operand 2 an immediate: R231, format R103. -/
  | cmnImm (c : Cond) (rn : Reg) (rot : BitVec 4) (imm : BitVec 8)
  /-- CMN, operand 2 a register shifted by an immediate: R231, format R104. -/
  | cmnShiftImm (c : Cond) (rn rm : Reg) (sh : Shift) (amt : BitVec 5)
  /-- CMN, operand 2 a register shifted by a register: R231, format R105. -/
  | cmnShiftReg (c : Cond) (rn rm : Reg) (sh : Shift) (rs : Reg)
  /-- TST, operand 2 an immediate: R232, format R103. -/
  | tstImm (c : Cond) (rn : Reg) (rot : BitVec 4) (imm : BitVec 8)
  /-- TST, operand 2 a register shifted by an immediate: R232, format R104. -/
  | tstShiftImm (c : Cond) (rn rm : Reg) (sh : Shift) (amt : BitVec 5)
  /-- TST, operand 2 a register shifted by a register: R232, format R105. -/
  | tstShiftReg (c : Cond) (rn rm : Reg) (sh : Shift) (rs : Reg)
  /-- TEQ, operand 2 an immediate: R233, format R103. -/
  | teqImm (c : Cond) (rn : Reg) (rot : BitVec 4) (imm : BitVec 8)
  /-- TEQ, operand 2 a register shifted by an immediate: R233, format R104. -/
  | teqShiftImm (c : Cond) (rn rm : Reg) (sh : Shift) (amt : BitVec 5)
  /-- TEQ, operand 2 a register shifted by a register: R233, format R105. -/
  | teqShiftReg (c : Cond) (rn rm : Reg) (sh : Shift) (rs : Reg)
  /-- AND, operand 2 an immediate: R234, format R103. -/
  | andImm (c : Cond) (sf : Bool) (rd rn : Reg) (rot : BitVec 4) (imm : BitVec 8)
  /-- AND, operand 2 a register shifted by an immediate: R234, format R104. -/
  | andShiftImm (c : Cond) (sf : Bool) (rd rn rm : Reg) (sh : Shift) (amt : BitVec 5)
  /-- AND, operand 2 a register shifted by a register: R234, format R105. -/
  | andShiftReg (c : Cond) (sf : Bool) (rd rn rm : Reg) (sh : Shift) (rs : Reg)
  /-- EOR, operand 2 an immediate: R235, format R103. -/
  | eorImm (c : Cond) (sf : Bool) (rd rn : Reg) (rot : BitVec 4) (imm : BitVec 8)
  /-- EOR, operand 2 a register shifted by an immediate: R235, format R104. -/
  | eorShiftImm (c : Cond) (sf : Bool) (rd rn rm : Reg) (sh : Shift) (amt : BitVec 5)
  /-- EOR, operand 2 a register shifted by a register: R235, format R105. -/
  | eorShiftReg (c : Cond) (sf : Bool) (rd rn rm : Reg) (sh : Shift) (rs : Reg)
  /-- ORR, operand 2 an immediate: R236, format R103. -/
  | orrImm (c : Cond) (sf : Bool) (rd rn : Reg) (rot : BitVec 4) (imm : BitVec 8)
  /-- ORR, operand 2 a register shifted by an immediate: R236, format R104. -/
  | orrShiftImm (c : Cond) (sf : Bool) (rd rn rm : Reg) (sh : Shift) (amt : BitVec 5)
  /-- ORR, operand 2 a register shifted by a register: R236, format R105. -/
  | orrShiftReg (c : Cond) (sf : Bool) (rd rn rm : Reg) (sh : Shift) (rs : Reg)
  /-- BIC, operand 2 an immediate: R237, format R103. -/
  | bicImm (c : Cond) (sf : Bool) (rd rn : Reg) (rot : BitVec 4) (imm : BitVec 8)
  /-- BIC, operand 2 a register shifted by an immediate: R237, format R104. -/
  | bicShiftImm (c : Cond) (sf : Bool) (rd rn rm : Reg) (sh : Shift) (amt : BitVec 5)
  /-- BIC, operand 2 a register shifted by a register: R237, format R105. -/
  | bicShiftReg (c : Cond) (sf : Bool) (rd rn rm : Reg) (sh : Shift) (rs : Reg)
  /-- MRS, R=0 (CPSR): R172, format R109. -/
  | mrsCpsr (c : Cond) (rd : Reg)
  /-- MRS, R=1 (SPSR): R173, format R109. -/
  | mrsSpsr (c : Cond) (rd : Reg)
  /-- MSR, R=0 (CPSR), register: R174, format R110. -/
  | msrCpsrReg (c : Cond) (mask : BitVec 4) (rm : Reg)
  /-- MSR, R=1 (SPSR), register: R175, format R110. -/
  | msrSpsrReg (c : Cond) (mask : BitVec 4) (rm : Reg)
  /-- MSR, R=0 (CPSR), immediate: R176, format R111. -/
  | msrCpsrImm (c : Cond) (mask rot : BitVec 4) (imm : BitVec 8)
  /-- MSR, R=1 (SPSR), immediate: R177, format R111. -/
  | msrSpsrImm (c : Cond) (mask rot : BitVec 4) (imm : BitVec 8)
  /-- MUL: R210, format R107. -/
  | mul (c : Cond) (sf : Bool) (rd rm rs : Reg)
  /-- MLA: R211, format R107. -/
  | mla (c : Cond) (sf : Bool) (rd rm rs rn : Reg)
  /-- UMULL: R212, format R108. -/
  | umull (c : Cond) (sf : Bool) (rdLo rdHi rm rs : Reg)
  /-- UMLAL: R213, format R108. -/
  | umlal (c : Cond) (sf : Bool) (rdLo rdHi rm rs : Reg)
  /-- SMULL: R214, format R108. -/
  | smull (c : Cond) (sf : Bool) (rdLo rdHi rm rs : Reg)
  /-- SMLAL: R215, format R108. -/
  | smlal (c : Cond) (sf : Bool) (rdLo rdHi rm rs : Reg)
  /-- B: R250, format R113. -/
  | b (c : Cond) (imm : BitVec 24)
  /-- BL: R251, format R113. -/
  | bl (c : Cond) (imm : BitVec 24)
  /-- BX: R252, format R112. -/
  | bx (c : Cond) (rn : Reg)
  /-- LDR, P=1: offset (W=0) or pre-indexed (W=1): R275, format R114. -/
  | ldrImm (c : Cond) (up wb : Bool) (rd rn : Reg) (off : BitVec 12)
  /-- LDR, P=0, W=0: post-indexed: R275, format R114. -/
  | ldrImmPost (c : Cond) (up : Bool) (rd rn : Reg) (off : BitVec 12)
  /-- LDR, P=1: offset (W=0) or pre-indexed (W=1): R275, format R115. -/
  | ldrReg (c : Cond) (up wb : Bool) (rd rn rm : Reg) (sh : Shift) (amt : BitVec 5)
  /-- LDR, P=0, W=0: post-indexed: R275, format R115. -/
  | ldrRegPost (c : Cond) (up : Bool) (rd rn rm : Reg) (sh : Shift) (amt : BitVec 5)
  /-- LDRT, P=0, W=1: post-indexed, user privilege: R276, format R114. -/
  | ldrtImm (c : Cond) (up : Bool) (rd rn : Reg) (off : BitVec 12)
  /-- LDRT, P=0, W=1: post-indexed, user privilege: R276, format R115. -/
  | ldrtReg (c : Cond) (up : Bool) (rd rn rm : Reg) (sh : Shift) (amt : BitVec 5)
  /-- LDRB, P=1: offset (W=0) or pre-indexed (W=1): R277, format R114. -/
  | ldrbImm (c : Cond) (up wb : Bool) (rd rn : Reg) (off : BitVec 12)
  /-- LDRB, P=0, W=0: post-indexed: R277, format R114. -/
  | ldrbImmPost (c : Cond) (up : Bool) (rd rn : Reg) (off : BitVec 12)
  /-- LDRB, P=1: offset (W=0) or pre-indexed (W=1): R277, format R115. -/
  | ldrbReg (c : Cond) (up wb : Bool) (rd rn rm : Reg) (sh : Shift) (amt : BitVec 5)
  /-- LDRB, P=0, W=0: post-indexed: R277, format R115. -/
  | ldrbRegPost (c : Cond) (up : Bool) (rd rn rm : Reg) (sh : Shift) (amt : BitVec 5)
  /-- LDRBT, P=0, W=1: post-indexed, user privilege: R278, format R114. -/
  | ldrbtImm (c : Cond) (up : Bool) (rd rn : Reg) (off : BitVec 12)
  /-- LDRBT, P=0, W=1: post-indexed, user privilege: R278, format R115. -/
  | ldrbtReg (c : Cond) (up : Bool) (rd rn rm : Reg) (sh : Shift) (amt : BitVec 5)
  /-- LDRSB, P=1: offset (W=0) or pre-indexed (W=1): R279, format R116. -/
  | ldrsbImm (c : Cond) (up wb : Bool) (rd rn : Reg) (off : BitVec 8)
  /-- LDRSB, P=0, W=0: post-indexed: R279, format R116. -/
  | ldrsbImmPost (c : Cond) (up : Bool) (rd rn : Reg) (off : BitVec 8)
  /-- LDRSB, P=1: offset (W=0) or pre-indexed (W=1): R279, format R117. -/
  | ldrsbReg (c : Cond) (up wb : Bool) (rd rn rm : Reg)
  /-- LDRSB, P=0, W=0: post-indexed: R279, format R117. -/
  | ldrsbRegPost (c : Cond) (up : Bool) (rd rn rm : Reg)
  /-- LDRH, P=1: offset (W=0) or pre-indexed (W=1): R280, format R116. -/
  | ldrhImm (c : Cond) (up wb : Bool) (rd rn : Reg) (off : BitVec 8)
  /-- LDRH, P=0, W=0: post-indexed: R280, format R116. -/
  | ldrhImmPost (c : Cond) (up : Bool) (rd rn : Reg) (off : BitVec 8)
  /-- LDRH, P=1: offset (W=0) or pre-indexed (W=1): R280, format R117. -/
  | ldrhReg (c : Cond) (up wb : Bool) (rd rn rm : Reg)
  /-- LDRH, P=0, W=0: post-indexed: R280, format R117. -/
  | ldrhRegPost (c : Cond) (up : Bool) (rd rn rm : Reg)
  /-- LDRSH, P=1: offset (W=0) or pre-indexed (W=1): R281, format R116. -/
  | ldrshImm (c : Cond) (up wb : Bool) (rd rn : Reg) (off : BitVec 8)
  /-- LDRSH, P=0, W=0: post-indexed: R281, format R116. -/
  | ldrshImmPost (c : Cond) (up : Bool) (rd rn : Reg) (off : BitVec 8)
  /-- LDRSH, P=1: offset (W=0) or pre-indexed (W=1): R281, format R117. -/
  | ldrshReg (c : Cond) (up wb : Bool) (rd rn rm : Reg)
  /-- LDRSH, P=0, W=0: post-indexed: R281, format R117. -/
  | ldrshRegPost (c : Cond) (up : Bool) (rd rn rm : Reg)
  /-- LDM, LDM (1): S=0: R308, format R118. -/
  | ldm1 (c : Cond) (mode : BlockMode) (wb : Bool) (rn : Reg) (list : BitVec 16)
  /-- LDM, LDM (3): S=1, bit 15 = 1 (restore CPSR): R309, format R118. -/
  | ldm3 (c : Cond) (mode : BlockMode) (wb : Bool) (rn : Reg) (list : BitVec 16)
  /-- LDM, LDM (2): S=1, bit 15 = 0, W=0 (user registers): R310, format R118. -/
  | ldm2 (c : Cond) (mode : BlockMode) (rn : Reg) (list : BitVec 16)
  /-- STR, P=1: offset (W=0) or pre-indexed (W=1): R282, format R114. -/
  | strImm (c : Cond) (up wb : Bool) (rd rn : Reg) (off : BitVec 12)
  /-- STR, P=0, W=0: post-indexed: R282, format R114. -/
  | strImmPost (c : Cond) (up : Bool) (rd rn : Reg) (off : BitVec 12)
  /-- STR, P=1: offset (W=0) or pre-indexed (W=1): R282, format R115. -/
  | strReg (c : Cond) (up wb : Bool) (rd rn rm : Reg) (sh : Shift) (amt : BitVec 5)
  /-- STR, P=0, W=0: post-indexed: R282, format R115. -/
  | strRegPost (c : Cond) (up : Bool) (rd rn rm : Reg) (sh : Shift) (amt : BitVec 5)
  /-- STRT, P=0, W=1: post-indexed, user privilege: R283, format R114. -/
  | strtImm (c : Cond) (up : Bool) (rd rn : Reg) (off : BitVec 12)
  /-- STRT, P=0, W=1: post-indexed, user privilege: R283, format R115. -/
  | strtReg (c : Cond) (up : Bool) (rd rn rm : Reg) (sh : Shift) (amt : BitVec 5)
  /-- STRB, P=1: offset (W=0) or pre-indexed (W=1): R284, format R114. -/
  | strbImm (c : Cond) (up wb : Bool) (rd rn : Reg) (off : BitVec 12)
  /-- STRB, P=0, W=0: post-indexed: R284, format R114. -/
  | strbImmPost (c : Cond) (up : Bool) (rd rn : Reg) (off : BitVec 12)
  /-- STRB, P=1: offset (W=0) or pre-indexed (W=1): R284, format R115. -/
  | strbReg (c : Cond) (up wb : Bool) (rd rn rm : Reg) (sh : Shift) (amt : BitVec 5)
  /-- STRB, P=0, W=0: post-indexed: R284, format R115. -/
  | strbRegPost (c : Cond) (up : Bool) (rd rn rm : Reg) (sh : Shift) (amt : BitVec 5)
  /-- STRBT, P=0, W=1: post-indexed, user privilege: R285, format R114. -/
  | strbtImm (c : Cond) (up : Bool) (rd rn : Reg) (off : BitVec 12)
  /-- STRBT, P=0, W=1: post-indexed, user privilege: R285, format R115. -/
  | strbtReg (c : Cond) (up : Bool) (rd rn rm : Reg) (sh : Shift) (amt : BitVec 5)
  /-- STRH, P=1: offset (W=0) or pre-indexed (W=1): R286, format R116. -/
  | strhImm (c : Cond) (up wb : Bool) (rd rn : Reg) (off : BitVec 8)
  /-- STRH, P=0, W=0: post-indexed: R286, format R116. -/
  | strhImmPost (c : Cond) (up : Bool) (rd rn : Reg) (off : BitVec 8)
  /-- STRH, P=1: offset (W=0) or pre-indexed (W=1): R286, format R117. -/
  | strhReg (c : Cond) (up wb : Bool) (rd rn rm : Reg)
  /-- STRH, P=0, W=0: post-indexed: R286, format R117. -/
  | strhRegPost (c : Cond) (up : Bool) (rd rn rm : Reg)
  /-- STM, STM (1): S=0: R311, format R118. -/
  | stm1 (c : Cond) (mode : BlockMode) (wb : Bool) (rn : Reg) (list : BitVec 16)
  /-- STM, STM (2): S=1, W=0 (user registers): R312, format R118. -/
  | stm2 (c : Cond) (mode : BlockMode) (rn : Reg) (list : BitVec 16)
  /-- SWP: R330, format R119. -/
  | swp (c : Cond) (rd rm rn : Reg)
  /-- SWPB: R331, format R119. -/
  | swpb (c : Cond) (rd rm rn : Reg)
  /-- SWI: R340, format R120. -/
  | swi (c : Cond) (imm : BitVec 24)
  /-- UNDEFINED, architecturally undefined instruction space: Undefined Instruction exception: R127. -/
  | undefinedSpace (c : Cond) (hi : BitVec 20) (lo : BitVec 4)
  /-- UNDEFINED, coprocessor load/store space (LDC, STC), no coprocessor: Undefined Instruction exception: R128. -/
  | coprocTransfer (c : Cond) (rest : BitVec 25)
  /-- UNDEFINED, coprocessor data/register-transfer space (CDP, MCR, MRC), no coprocessor: Undefined Instruction exception: R128. -/
  | coprocOperation (c : Cond) (rest : BitVec 24)
deriving DecidableEq, Repr

end Sys2Proof
end

