-- ==== Sys2Proof/WellFormed.lean ====
section
/-! DEFINITION. Which instruction terms have an encoding. Every operand field has exactly the width the encoding gives
it, so that only the two rows which fix a bit of the register list leave something to check. -/

namespace Sys2Proof

/-- Bit 15 of a register list: is R15 listed (30_encoding.md R125)? -/
def listsPc (list : BitVec 16) : Bool := list.getLsbD 15

/-- The terms that have an encoding: LDM (3) lists R15 and LDM (2) does not (30_encoding.md R118;
47_load_store_multiple.md R309, R310). Combinations that encode but are refused when executed (43_multiply.md R216,
46_load_store_single.md R273 and the like) are well formed. -/
def WellFormed : Instr → Bool
  | .movImm _ _ _ _ _ => true
  | .movShiftImm _ _ _ _ _ _ => true
  | .movShiftReg _ _ _ _ _ _ => true
  | .mvnImm _ _ _ _ _ => true
  | .mvnShiftImm _ _ _ _ _ _ => true
  | .mvnShiftReg _ _ _ _ _ _ => true
  | .addImm _ _ _ _ _ _ => true
  | .addShiftImm _ _ _ _ _ _ _ => true
  | .addShiftReg _ _ _ _ _ _ _ => true
  | .adcImm _ _ _ _ _ _ => true
  | .adcShiftImm _ _ _ _ _ _ _ => true
  | .adcShiftReg _ _ _ _ _ _ _ => true
  | .subImm _ _ _ _ _ _ => true
  | .subShiftImm _ _ _ _ _ _ _ => true
  | .subShiftReg _ _ _ _ _ _ _ => true
  | .sbcImm _ _ _ _ _ _ => true
  | .sbcShiftImm _ _ _ _ _ _ _ => true
  | .sbcShiftReg _ _ _ _ _ _ _ => true
  | .rsbImm _ _ _ _ _ _ => true
  | .rsbShiftImm _ _ _ _ _ _ _ => true
  | .rsbShiftReg _ _ _ _ _ _ _ => true
  | .rscImm _ _ _ _ _ _ => true
  | .rscShiftImm _ _ _ _ _ _ _ => true
  | .rscShiftReg _ _ _ _ _ _ _ => true
  | .cmpImm _ _ _ _ => true
  | .cmpShiftImm _ _ _ _ _ => true
  | .cmpShiftReg _ _ _ _ _ => true
  | .cmnImm _ _ _ _ => true
  | .cmnShiftImm _ _ _ _ _ => true
  | .cmnShiftReg _ _ _ _ _ => true
  | .tstImm _ _ _ _ => true
  | .tstShiftImm _ _ _ _ _ => true
  | .tstShiftReg _ _ _ _ _ => true
  | .teqImm _ _ _ _ => true
  | .teqShiftImm _ _ _ _ _ => true
  | .teqShiftReg _ _ _ _ _ => true
  | .andImm _ _ _ _ _ _ => true
  | .andShiftImm _ _ _ _ _ _ _ => true
  | .andShiftReg _ _ _ _ _ _ _ => true
  | .eorImm _ _ _ _ _ _ => true
  | .eorShiftImm _ _ _ _ _ _ _ => true
  | .eorShiftReg _ _ _ _ _ _ _ => true
  | .orrImm _ _ _ _ _ _ => true
  | .orrShiftImm _ _ _ _ _ _ _ => true
  | .orrShiftReg _ _ _ _ _ _ _ => true
  | .bicImm _ _ _ _ _ _ => true
  | .bicShiftImm _ _ _ _ _ _ _ => true
  | .bicShiftReg _ _ _ _ _ _ _ => true
  | .mrsCpsr _ _ => true
  | .mrsSpsr _ _ => true
  | .msrCpsrReg _ _ _ => true
  | .msrSpsrReg _ _ _ => true
  | .msrCpsrImm _ _ _ _ => true
  | .msrSpsrImm _ _ _ _ => true
  | .mul _ _ _ _ _ => true
  | .mla _ _ _ _ _ _ => true
  | .umull _ _ _ _ _ _ => true
  | .umlal _ _ _ _ _ _ => true
  | .smull _ _ _ _ _ _ => true
  | .smlal _ _ _ _ _ _ => true
  | .b _ _ => true
  | .bl _ _ => true
  | .bx _ _ => true
  | .ldrImm _ _ _ _ _ _ => true
  | .ldrImmPost _ _ _ _ _ => true
  | .ldrReg _ _ _ _ _ _ _ _ => true
  | .ldrRegPost _ _ _ _ _ _ _ => true
  | .ldrtImm _ _ _ _ _ => true
  | .ldrtReg _ _ _ _ _ _ _ => true
  | .ldrbImm _ _ _ _ _ _ => true
  | .ldrbImmPost _ _ _ _ _ => true
  | .ldrbReg _ _ _ _ _ _ _ _ => true
  | .ldrbRegPost _ _ _ _ _ _ _ => true
  | .ldrbtImm _ _ _ _ _ => true
  | .ldrbtReg _ _ _ _ _ _ _ => true
  | .ldrsbImm _ _ _ _ _ _ => true
  | .ldrsbImmPost _ _ _ _ _ => true
  | .ldrsbReg _ _ _ _ _ _ => true
  | .ldrsbRegPost _ _ _ _ _ => true
  | .ldrhImm _ _ _ _ _ _ => true
  | .ldrhImmPost _ _ _ _ _ => true
  | .ldrhReg _ _ _ _ _ _ => true
  | .ldrhRegPost _ _ _ _ _ => true
  | .ldrshImm _ _ _ _ _ _ => true
  | .ldrshImmPost _ _ _ _ _ => true
  | .ldrshReg _ _ _ _ _ _ => true
  | .ldrshRegPost _ _ _ _ _ => true
  | .ldm1 _ _ _ _ _ => true
  | .ldm3 _ _ _ _ list => listsPc list
  | .ldm2 _ _ _ list => !listsPc list
  | .strImm _ _ _ _ _ _ => true
  | .strImmPost _ _ _ _ _ => true
  | .strReg _ _ _ _ _ _ _ _ => true
  | .strRegPost _ _ _ _ _ _ _ => true
  | .strtImm _ _ _ _ _ => true
  | .strtReg _ _ _ _ _ _ _ => true
  | .strbImm _ _ _ _ _ _ => true
  | .strbImmPost _ _ _ _ _ => true
  | .strbReg _ _ _ _ _ _ _ _ => true
  | .strbRegPost _ _ _ _ _ _ _ => true
  | .strbtImm _ _ _ _ _ => true
  | .strbtReg _ _ _ _ _ _ _ => true
  | .strhImm _ _ _ _ _ _ => true
  | .strhImmPost _ _ _ _ _ => true
  | .strhReg _ _ _ _ _ _ => true
  | .strhRegPost _ _ _ _ _ => true
  | .stm1 _ _ _ _ _ => true
  | .stm2 _ _ _ _ => true
  | .swp _ _ _ _ => true
  | .swpb _ _ _ _ => true
  | .swi _ _ => true
  | .undefinedSpace _ _ _ => true
  | .coprocTransfer _ _ => true
  | .coprocOperation _ _ => true

end Sys2Proof
end

