-- ==== Sys2Proof/Decode.lean ====
section
/-! DEFINITION. The decoder and the encoder (30_encoding.md). The decoder follows R101: the condition field first, then
the one row of the table whose `mask` and `pattern` the word meets; it is total and rejects by name. The encoder writes
each row's pattern and lays the operands in their fields. -/

namespace Sys2Proof

/-- Why bytes are no instruction. -/
inductive DecodeError where
  /-- Bits [31:28] are 1111 (30_encoding.md R126). -/
  | condNV
  /-- The word matches no row (30_encoding.md R129, R130). -/
  | unallocated
  /-- Fewer than four bytes were given: an instruction is one 32-bit word (30_encoding.md R100). -/
  | truncated
deriving DecidableEq, Repr

/-! ## Fields of a word (00_scope.md R7) -/

/-- The `n` bits of `w` from bit `lo` up. -/
def fieldAt (lo n : Nat) (w : Word) : BitVec n := w.extractLsb' lo n

/-- Bit `lo` of `w`. -/
def flagAt (lo : Nat) (w : Word) : Bool := w.getLsbD lo

/-- `v` laid in a word with its bit 0 at bit `lo`. -/
def place (lo : Nat) {n : Nat} (v : BitVec n) : Word := v.setWidth 32 <<< lo

/-- A flag laid at bit `lo`. -/
def placeFlag (lo : Nat) (v : Bool) : Word := place lo (BitVec.ofBool v)

/-! ## Codes of the enumerated operands -/

/-- The 4-bit code of a condition (40_conditions_operand2.md R140). -/
def Cond.code : Cond → BitVec 4
  | .eq => 0b0000#4 | .ne => 0b0001#4 | .cs => 0b0010#4 | .cc => 0b0011#4 | .mi => 0b0100#4
  | .pl => 0b0101#4 | .vs => 0b0110#4 | .vc => 0b0111#4 | .hi => 0b1000#4 | .ls => 0b1001#4
  | .ge => 0b1010#4 | .lt => 0b1011#4 | .gt => 0b1100#4 | .le => 0b1101#4 | .al => 0b1110#4

/-- The condition a 4-bit code stands for; 1111 stands for none (40_conditions_operand2.md R140; 30_encoding.md R126). -/
def Cond.ofCode (b : BitVec 4) : Option Cond :=
  [Cond.eq, .ne, .cs, .cc, .mi, .pl, .vs, .vc, .hi, .ls, .ge, .lt, .gt, .le, .al][b.toNat]?

/-- The 4-bit number of a register operand (10_state.md R31). -/
def Reg.code : Reg → BitVec 4
  | .r n => BitVec.ofNat 4 n.val
  | .pc => 15#4

/-- The register a 4-bit number names (10_state.md R31). -/
def Reg.ofCode (b : BitVec 4) : Reg :=
  if h : b.toNat < 15 then .r ⟨b.toNat, h⟩ else .pc

/-- The `shift` codes of 30_encoding.md R106. -/
def Shift.code : Shift → BitVec 2
  | .lsl => 0b00#2 | .lsr => 0b01#2 | .asr => 0b10#2 | .ror => 0b11#2

/-- The shift a 2-bit code stands for (30_encoding.md R106). -/
def Shift.ofCode (b : BitVec 2) : Shift :=
  match b.toNat with
  | 0 => .lsl | 1 => .lsr | 2 => .asr | _ => .ror

/-- The `P U` bits of a block-transfer mode (30_encoding.md R118). -/
def BlockMode.code : BlockMode → BitVec 2
  | .da => 0b00#2 | .ia => 0b01#2 | .db => 0b10#2 | .ib => 0b11#2

/-- The block-transfer mode of the `P U` bits (30_encoding.md R118). -/
def BlockMode.ofCode (b : BitVec 2) : BlockMode :=
  match b.toNat with
  | 0 => .da | 1 => .ia | 2 => .db | _ => .ib

/-- The register named in the four bits from `lo`. -/
def regAt (lo : Nat) (w : Word) : Reg := Reg.ofCode (fieldAt lo 4 w)

/-- The shift named in bits [6:5]. -/
def shiftAt (w : Word) : Shift := Shift.ofCode (fieldAt 5 2 w)

/-- The block mode named in bits [24:23]. -/
def modeAt (w : Word) : BlockMode := BlockMode.ofCode (fieldAt 23 2 w)

/-- The 8-bit offset `immedH : immedL` of bits [11:8] and [3:0] (30_encoding.md R116). -/
def offset8At (w : Word) : BitVec 8 := fieldAt 8 4 w ++ fieldAt 0 4 w

/-- The 8-bit offset laid in its two nibbles (30_encoding.md R116, R124). -/
def placeOffset8 (v : BitVec 8) : Word :=
  place 8 (v.extractLsb' 4 4) ||| place 0 (v.extractLsb' 0 4)

/-! ## The table -/

/-- One row of the opcode table: a word `w` with `w &&& mask = pattern` is the instruction `build` reads from it
(30_encoding.md R101). The condition bits are in no mask. -/
structure Row where
  mask : Word
  pattern : Word
  build : Cond → Word → Instr

/-- Rows of MOV, MVN (41_move_psr.md R170, R171). -/
def moveRows : List Row := [
  ⟨0x0FEF0000#32, 0x03A00000#32, fun c w => .movImm c (flagAt 20 w) (regAt 12 w) (fieldAt 8 4 w) (fieldAt 0 8 w)⟩,
  ⟨0x0FEF0010#32, 0x01A00000#32, fun c w => .movShiftImm c (flagAt 20 w) (regAt 12 w) (regAt 0 w) (shiftAt w) (fieldAt 7 5 w)⟩,
  ⟨0x0FEF0090#32, 0x01A00010#32, fun c w => .movShiftReg c (flagAt 20 w) (regAt 12 w) (regAt 0 w) (shiftAt w) (regAt 8 w)⟩,
  ⟨0x0FEF0000#32, 0x03E00000#32, fun c w => .mvnImm c (flagAt 20 w) (regAt 12 w) (fieldAt 8 4 w) (fieldAt 0 8 w)⟩,
  ⟨0x0FEF0010#32, 0x01E00000#32, fun c w => .mvnShiftImm c (flagAt 20 w) (regAt 12 w) (regAt 0 w) (shiftAt w) (fieldAt 7 5 w)⟩,
  ⟨0x0FEF0090#32, 0x01E00010#32, fun c w => .mvnShiftReg c (flagAt 20 w) (regAt 12 w) (regAt 0 w) (shiftAt w) (regAt 8 w)⟩]

/-- Rows of ADD, ADC, SUB, SBC, RSB, RSC (42_arithmetic.md). -/
def arithmeticRows : List Row := [
  ⟨0x0FE00000#32, 0x02800000#32, fun c w => .addImm c (flagAt 20 w) (regAt 12 w) (regAt 16 w) (fieldAt 8 4 w) (fieldAt 0 8 w)⟩,
  ⟨0x0FE00010#32, 0x00800000#32, fun c w => .addShiftImm c (flagAt 20 w) (regAt 12 w) (regAt 16 w) (regAt 0 w) (shiftAt w) (fieldAt 7 5 w)⟩,
  ⟨0x0FE00090#32, 0x00800010#32, fun c w => .addShiftReg c (flagAt 20 w) (regAt 12 w) (regAt 16 w) (regAt 0 w) (shiftAt w) (regAt 8 w)⟩,
  ⟨0x0FE00000#32, 0x02A00000#32, fun c w => .adcImm c (flagAt 20 w) (regAt 12 w) (regAt 16 w) (fieldAt 8 4 w) (fieldAt 0 8 w)⟩,
  ⟨0x0FE00010#32, 0x00A00000#32, fun c w => .adcShiftImm c (flagAt 20 w) (regAt 12 w) (regAt 16 w) (regAt 0 w) (shiftAt w) (fieldAt 7 5 w)⟩,
  ⟨0x0FE00090#32, 0x00A00010#32, fun c w => .adcShiftReg c (flagAt 20 w) (regAt 12 w) (regAt 16 w) (regAt 0 w) (shiftAt w) (regAt 8 w)⟩,
  ⟨0x0FE00000#32, 0x02400000#32, fun c w => .subImm c (flagAt 20 w) (regAt 12 w) (regAt 16 w) (fieldAt 8 4 w) (fieldAt 0 8 w)⟩,
  ⟨0x0FE00010#32, 0x00400000#32, fun c w => .subShiftImm c (flagAt 20 w) (regAt 12 w) (regAt 16 w) (regAt 0 w) (shiftAt w) (fieldAt 7 5 w)⟩,
  ⟨0x0FE00090#32, 0x00400010#32, fun c w => .subShiftReg c (flagAt 20 w) (regAt 12 w) (regAt 16 w) (regAt 0 w) (shiftAt w) (regAt 8 w)⟩,
  ⟨0x0FE00000#32, 0x02C00000#32, fun c w => .sbcImm c (flagAt 20 w) (regAt 12 w) (regAt 16 w) (fieldAt 8 4 w) (fieldAt 0 8 w)⟩,
  ⟨0x0FE00010#32, 0x00C00000#32, fun c w => .sbcShiftImm c (flagAt 20 w) (regAt 12 w) (regAt 16 w) (regAt 0 w) (shiftAt w) (fieldAt 7 5 w)⟩,
  ⟨0x0FE00090#32, 0x00C00010#32, fun c w => .sbcShiftReg c (flagAt 20 w) (regAt 12 w) (regAt 16 w) (regAt 0 w) (shiftAt w) (regAt 8 w)⟩,
  ⟨0x0FE00000#32, 0x02600000#32, fun c w => .rsbImm c (flagAt 20 w) (regAt 12 w) (regAt 16 w) (fieldAt 8 4 w) (fieldAt 0 8 w)⟩,
  ⟨0x0FE00010#32, 0x00600000#32, fun c w => .rsbShiftImm c (flagAt 20 w) (regAt 12 w) (regAt 16 w) (regAt 0 w) (shiftAt w) (fieldAt 7 5 w)⟩,
  ⟨0x0FE00090#32, 0x00600010#32, fun c w => .rsbShiftReg c (flagAt 20 w) (regAt 12 w) (regAt 16 w) (regAt 0 w) (shiftAt w) (regAt 8 w)⟩,
  ⟨0x0FE00000#32, 0x02E00000#32, fun c w => .rscImm c (flagAt 20 w) (regAt 12 w) (regAt 16 w) (fieldAt 8 4 w) (fieldAt 0 8 w)⟩,
  ⟨0x0FE00010#32, 0x00E00000#32, fun c w => .rscShiftImm c (flagAt 20 w) (regAt 12 w) (regAt 16 w) (regAt 0 w) (shiftAt w) (fieldAt 7 5 w)⟩,
  ⟨0x0FE00090#32, 0x00E00010#32, fun c w => .rscShiftReg c (flagAt 20 w) (regAt 12 w) (regAt 16 w) (regAt 0 w) (shiftAt w) (regAt 8 w)⟩]

/-- Rows of CMP, CMN, TST, TEQ (44_compare_logical.md). -/
def compareRows : List Row := [
  ⟨0x0FF0F000#32, 0x03500000#32, fun c w => .cmpImm c (regAt 16 w) (fieldAt 8 4 w) (fieldAt 0 8 w)⟩,
  ⟨0x0FF0F010#32, 0x01500000#32, fun c w => .cmpShiftImm c (regAt 16 w) (regAt 0 w) (shiftAt w) (fieldAt 7 5 w)⟩,
  ⟨0x0FF0F090#32, 0x01500010#32, fun c w => .cmpShiftReg c (regAt 16 w) (regAt 0 w) (shiftAt w) (regAt 8 w)⟩,
  ⟨0x0FF0F000#32, 0x03700000#32, fun c w => .cmnImm c (regAt 16 w) (fieldAt 8 4 w) (fieldAt 0 8 w)⟩,
  ⟨0x0FF0F010#32, 0x01700000#32, fun c w => .cmnShiftImm c (regAt 16 w) (regAt 0 w) (shiftAt w) (fieldAt 7 5 w)⟩,
  ⟨0x0FF0F090#32, 0x01700010#32, fun c w => .cmnShiftReg c (regAt 16 w) (regAt 0 w) (shiftAt w) (regAt 8 w)⟩,
  ⟨0x0FF0F000#32, 0x03100000#32, fun c w => .tstImm c (regAt 16 w) (fieldAt 8 4 w) (fieldAt 0 8 w)⟩,
  ⟨0x0FF0F010#32, 0x01100000#32, fun c w => .tstShiftImm c (regAt 16 w) (regAt 0 w) (shiftAt w) (fieldAt 7 5 w)⟩,
  ⟨0x0FF0F090#32, 0x01100010#32, fun c w => .tstShiftReg c (regAt 16 w) (regAt 0 w) (shiftAt w) (regAt 8 w)⟩,
  ⟨0x0FF0F000#32, 0x03300000#32, fun c w => .teqImm c (regAt 16 w) (fieldAt 8 4 w) (fieldAt 0 8 w)⟩,
  ⟨0x0FF0F010#32, 0x01300000#32, fun c w => .teqShiftImm c (regAt 16 w) (regAt 0 w) (shiftAt w) (fieldAt 7 5 w)⟩,
  ⟨0x0FF0F090#32, 0x01300010#32, fun c w => .teqShiftReg c (regAt 16 w) (regAt 0 w) (shiftAt w) (regAt 8 w)⟩]

/-- Rows of AND, EOR, ORR, BIC (44_compare_logical.md). -/
def logicalRows : List Row := [
  ⟨0x0FE00000#32, 0x02000000#32, fun c w => .andImm c (flagAt 20 w) (regAt 12 w) (regAt 16 w) (fieldAt 8 4 w) (fieldAt 0 8 w)⟩,
  ⟨0x0FE00010#32, 0x00000000#32, fun c w => .andShiftImm c (flagAt 20 w) (regAt 12 w) (regAt 16 w) (regAt 0 w) (shiftAt w) (fieldAt 7 5 w)⟩,
  ⟨0x0FE00090#32, 0x00000010#32, fun c w => .andShiftReg c (flagAt 20 w) (regAt 12 w) (regAt 16 w) (regAt 0 w) (shiftAt w) (regAt 8 w)⟩,
  ⟨0x0FE00000#32, 0x02200000#32, fun c w => .eorImm c (flagAt 20 w) (regAt 12 w) (regAt 16 w) (fieldAt 8 4 w) (fieldAt 0 8 w)⟩,
  ⟨0x0FE00010#32, 0x00200000#32, fun c w => .eorShiftImm c (flagAt 20 w) (regAt 12 w) (regAt 16 w) (regAt 0 w) (shiftAt w) (fieldAt 7 5 w)⟩,
  ⟨0x0FE00090#32, 0x00200010#32, fun c w => .eorShiftReg c (flagAt 20 w) (regAt 12 w) (regAt 16 w) (regAt 0 w) (shiftAt w) (regAt 8 w)⟩,
  ⟨0x0FE00000#32, 0x03800000#32, fun c w => .orrImm c (flagAt 20 w) (regAt 12 w) (regAt 16 w) (fieldAt 8 4 w) (fieldAt 0 8 w)⟩,
  ⟨0x0FE00010#32, 0x01800000#32, fun c w => .orrShiftImm c (flagAt 20 w) (regAt 12 w) (regAt 16 w) (regAt 0 w) (shiftAt w) (fieldAt 7 5 w)⟩,
  ⟨0x0FE00090#32, 0x01800010#32, fun c w => .orrShiftReg c (flagAt 20 w) (regAt 12 w) (regAt 16 w) (regAt 0 w) (shiftAt w) (regAt 8 w)⟩,
  ⟨0x0FE00000#32, 0x03C00000#32, fun c w => .bicImm c (flagAt 20 w) (regAt 12 w) (regAt 16 w) (fieldAt 8 4 w) (fieldAt 0 8 w)⟩,
  ⟨0x0FE00010#32, 0x01C00000#32, fun c w => .bicShiftImm c (flagAt 20 w) (regAt 12 w) (regAt 16 w) (regAt 0 w) (shiftAt w) (fieldAt 7 5 w)⟩,
  ⟨0x0FE00090#32, 0x01C00010#32, fun c w => .bicShiftReg c (flagAt 20 w) (regAt 12 w) (regAt 16 w) (regAt 0 w) (shiftAt w) (regAt 8 w)⟩]

/-- Rows of MRS, MSR (41_move_psr.md). -/
def statusRows : List Row := [
  ⟨0x0FFF0FFF#32, 0x010F0000#32, fun c w => .mrsCpsr c (regAt 12 w)⟩,
  ⟨0x0FFF0FFF#32, 0x014F0000#32, fun c w => .mrsSpsr c (regAt 12 w)⟩,
  ⟨0x0FF0FFF0#32, 0x0120F000#32, fun c w => .msrCpsrReg c (fieldAt 16 4 w) (regAt 0 w)⟩,
  ⟨0x0FF0FFF0#32, 0x0160F000#32, fun c w => .msrSpsrReg c (fieldAt 16 4 w) (regAt 0 w)⟩,
  ⟨0x0FF0F000#32, 0x0320F000#32, fun c w => .msrCpsrImm c (fieldAt 16 4 w) (fieldAt 8 4 w) (fieldAt 0 8 w)⟩,
  ⟨0x0FF0F000#32, 0x0360F000#32, fun c w => .msrSpsrImm c (fieldAt 16 4 w) (fieldAt 8 4 w) (fieldAt 0 8 w)⟩]

/-- Rows of MUL, MLA and the long multiplies (43_multiply.md). -/
def multiplyRows : List Row := [
  ⟨0x0FE0F0F0#32, 0x00000090#32, fun c w => .mul c (flagAt 20 w) (regAt 16 w) (regAt 0 w) (regAt 8 w)⟩,
  ⟨0x0FE000F0#32, 0x00200090#32, fun c w => .mla c (flagAt 20 w) (regAt 16 w) (regAt 0 w) (regAt 8 w) (regAt 12 w)⟩,
  ⟨0x0FE000F0#32, 0x00800090#32, fun c w => .umull c (flagAt 20 w) (regAt 12 w) (regAt 16 w) (regAt 0 w) (regAt 8 w)⟩,
  ⟨0x0FE000F0#32, 0x00A00090#32, fun c w => .umlal c (flagAt 20 w) (regAt 12 w) (regAt 16 w) (regAt 0 w) (regAt 8 w)⟩,
  ⟨0x0FE000F0#32, 0x00C00090#32, fun c w => .smull c (flagAt 20 w) (regAt 12 w) (regAt 16 w) (regAt 0 w) (regAt 8 w)⟩,
  ⟨0x0FE000F0#32, 0x00E00090#32, fun c w => .smlal c (flagAt 20 w) (regAt 12 w) (regAt 16 w) (regAt 0 w) (regAt 8 w)⟩]

/-- Rows of B, BL, BX (45_branch.md). -/
def branchRows : List Row := [
  ⟨0x0F000000#32, 0x0A000000#32, fun c w => .b c (fieldAt 0 24 w)⟩,
  ⟨0x0F000000#32, 0x0B000000#32, fun c w => .bl c (fieldAt 0 24 w)⟩,
  ⟨0x0FFFFFF0#32, 0x012FFF10#32, fun c w => .bx c (regAt 0 w)⟩]

/-- Rows of the single loads (46_load_store_single.md). -/
def loadRows : List Row := [
  ⟨0x0F500000#32, 0x05100000#32, fun c w => .ldrImm c (flagAt 23 w) (flagAt 21 w) (regAt 12 w) (regAt 16 w) (fieldAt 0 12 w)⟩,
  ⟨0x0F700000#32, 0x04100000#32, fun c w => .ldrImmPost c (flagAt 23 w) (regAt 12 w) (regAt 16 w) (fieldAt 0 12 w)⟩,
  ⟨0x0F500010#32, 0x07100000#32, fun c w => .ldrReg c (flagAt 23 w) (flagAt 21 w) (regAt 12 w) (regAt 16 w) (regAt 0 w) (shiftAt w) (fieldAt 7 5 w)⟩,
  ⟨0x0F700010#32, 0x06100000#32, fun c w => .ldrRegPost c (flagAt 23 w) (regAt 12 w) (regAt 16 w) (regAt 0 w) (shiftAt w) (fieldAt 7 5 w)⟩,
  ⟨0x0F700000#32, 0x04300000#32, fun c w => .ldrtImm c (flagAt 23 w) (regAt 12 w) (regAt 16 w) (fieldAt 0 12 w)⟩,
  ⟨0x0F700010#32, 0x06300000#32, fun c w => .ldrtReg c (flagAt 23 w) (regAt 12 w) (regAt 16 w) (regAt 0 w) (shiftAt w) (fieldAt 7 5 w)⟩,
  ⟨0x0F500000#32, 0x05500000#32, fun c w => .ldrbImm c (flagAt 23 w) (flagAt 21 w) (regAt 12 w) (regAt 16 w) (fieldAt 0 12 w)⟩,
  ⟨0x0F700000#32, 0x04500000#32, fun c w => .ldrbImmPost c (flagAt 23 w) (regAt 12 w) (regAt 16 w) (fieldAt 0 12 w)⟩,
  ⟨0x0F500010#32, 0x07500000#32, fun c w => .ldrbReg c (flagAt 23 w) (flagAt 21 w) (regAt 12 w) (regAt 16 w) (regAt 0 w) (shiftAt w) (fieldAt 7 5 w)⟩,
  ⟨0x0F700010#32, 0x06500000#32, fun c w => .ldrbRegPost c (flagAt 23 w) (regAt 12 w) (regAt 16 w) (regAt 0 w) (shiftAt w) (fieldAt 7 5 w)⟩,
  ⟨0x0F700000#32, 0x04700000#32, fun c w => .ldrbtImm c (flagAt 23 w) (regAt 12 w) (regAt 16 w) (fieldAt 0 12 w)⟩,
  ⟨0x0F700010#32, 0x06700000#32, fun c w => .ldrbtReg c (flagAt 23 w) (regAt 12 w) (regAt 16 w) (regAt 0 w) (shiftAt w) (fieldAt 7 5 w)⟩,
  ⟨0x0F5000F0#32, 0x015000D0#32, fun c w => .ldrsbImm c (flagAt 23 w) (flagAt 21 w) (regAt 12 w) (regAt 16 w) (offset8At w)⟩,
  ⟨0x0F7000F0#32, 0x005000D0#32, fun c w => .ldrsbImmPost c (flagAt 23 w) (regAt 12 w) (regAt 16 w) (offset8At w)⟩,
  ⟨0x0F500FF0#32, 0x011000D0#32, fun c w => .ldrsbReg c (flagAt 23 w) (flagAt 21 w) (regAt 12 w) (regAt 16 w) (regAt 0 w)⟩,
  ⟨0x0F700FF0#32, 0x001000D0#32, fun c w => .ldrsbRegPost c (flagAt 23 w) (regAt 12 w) (regAt 16 w) (regAt 0 w)⟩,
  ⟨0x0F5000F0#32, 0x015000B0#32, fun c w => .ldrhImm c (flagAt 23 w) (flagAt 21 w) (regAt 12 w) (regAt 16 w) (offset8At w)⟩,
  ⟨0x0F7000F0#32, 0x005000B0#32, fun c w => .ldrhImmPost c (flagAt 23 w) (regAt 12 w) (regAt 16 w) (offset8At w)⟩,
  ⟨0x0F500FF0#32, 0x011000B0#32, fun c w => .ldrhReg c (flagAt 23 w) (flagAt 21 w) (regAt 12 w) (regAt 16 w) (regAt 0 w)⟩,
  ⟨0x0F700FF0#32, 0x001000B0#32, fun c w => .ldrhRegPost c (flagAt 23 w) (regAt 12 w) (regAt 16 w) (regAt 0 w)⟩,
  ⟨0x0F5000F0#32, 0x015000F0#32, fun c w => .ldrshImm c (flagAt 23 w) (flagAt 21 w) (regAt 12 w) (regAt 16 w) (offset8At w)⟩,
  ⟨0x0F7000F0#32, 0x005000F0#32, fun c w => .ldrshImmPost c (flagAt 23 w) (regAt 12 w) (regAt 16 w) (offset8At w)⟩,
  ⟨0x0F500FF0#32, 0x011000F0#32, fun c w => .ldrshReg c (flagAt 23 w) (flagAt 21 w) (regAt 12 w) (regAt 16 w) (regAt 0 w)⟩,
  ⟨0x0F700FF0#32, 0x001000F0#32, fun c w => .ldrshRegPost c (flagAt 23 w) (regAt 12 w) (regAt 16 w) (regAt 0 w)⟩]

/-- Rows of the single stores (46_load_store_single.md). -/
def storeRows : List Row := [
  ⟨0x0F500000#32, 0x05000000#32, fun c w => .strImm c (flagAt 23 w) (flagAt 21 w) (regAt 12 w) (regAt 16 w) (fieldAt 0 12 w)⟩,
  ⟨0x0F700000#32, 0x04000000#32, fun c w => .strImmPost c (flagAt 23 w) (regAt 12 w) (regAt 16 w) (fieldAt 0 12 w)⟩,
  ⟨0x0F500010#32, 0x07000000#32, fun c w => .strReg c (flagAt 23 w) (flagAt 21 w) (regAt 12 w) (regAt 16 w) (regAt 0 w) (shiftAt w) (fieldAt 7 5 w)⟩,
  ⟨0x0F700010#32, 0x06000000#32, fun c w => .strRegPost c (flagAt 23 w) (regAt 12 w) (regAt 16 w) (regAt 0 w) (shiftAt w) (fieldAt 7 5 w)⟩,
  ⟨0x0F700000#32, 0x04200000#32, fun c w => .strtImm c (flagAt 23 w) (regAt 12 w) (regAt 16 w) (fieldAt 0 12 w)⟩,
  ⟨0x0F700010#32, 0x06200000#32, fun c w => .strtReg c (flagAt 23 w) (regAt 12 w) (regAt 16 w) (regAt 0 w) (shiftAt w) (fieldAt 7 5 w)⟩,
  ⟨0x0F500000#32, 0x05400000#32, fun c w => .strbImm c (flagAt 23 w) (flagAt 21 w) (regAt 12 w) (regAt 16 w) (fieldAt 0 12 w)⟩,
  ⟨0x0F700000#32, 0x04400000#32, fun c w => .strbImmPost c (flagAt 23 w) (regAt 12 w) (regAt 16 w) (fieldAt 0 12 w)⟩,
  ⟨0x0F500010#32, 0x07400000#32, fun c w => .strbReg c (flagAt 23 w) (flagAt 21 w) (regAt 12 w) (regAt 16 w) (regAt 0 w) (shiftAt w) (fieldAt 7 5 w)⟩,
  ⟨0x0F700010#32, 0x06400000#32, fun c w => .strbRegPost c (flagAt 23 w) (regAt 12 w) (regAt 16 w) (regAt 0 w) (shiftAt w) (fieldAt 7 5 w)⟩,
  ⟨0x0F700000#32, 0x04600000#32, fun c w => .strbtImm c (flagAt 23 w) (regAt 12 w) (regAt 16 w) (fieldAt 0 12 w)⟩,
  ⟨0x0F700010#32, 0x06600000#32, fun c w => .strbtReg c (flagAt 23 w) (regAt 12 w) (regAt 16 w) (regAt 0 w) (shiftAt w) (fieldAt 7 5 w)⟩,
  ⟨0x0F5000F0#32, 0x014000B0#32, fun c w => .strhImm c (flagAt 23 w) (flagAt 21 w) (regAt 12 w) (regAt 16 w) (offset8At w)⟩,
  ⟨0x0F7000F0#32, 0x004000B0#32, fun c w => .strhImmPost c (flagAt 23 w) (regAt 12 w) (regAt 16 w) (offset8At w)⟩,
  ⟨0x0F500FF0#32, 0x010000B0#32, fun c w => .strhReg c (flagAt 23 w) (flagAt 21 w) (regAt 12 w) (regAt 16 w) (regAt 0 w)⟩,
  ⟨0x0F700FF0#32, 0x000000B0#32, fun c w => .strhRegPost c (flagAt 23 w) (regAt 12 w) (regAt 16 w) (regAt 0 w)⟩]

/-- Rows of LDM, STM (47_load_store_multiple.md). -/
def blockRows : List Row := [
  ⟨0x0E500000#32, 0x08100000#32, fun c w => .ldm1 c (modeAt w) (flagAt 21 w) (regAt 16 w) (fieldAt 0 16 w)⟩,
  ⟨0x0E508000#32, 0x08508000#32, fun c w => .ldm3 c (modeAt w) (flagAt 21 w) (regAt 16 w) (fieldAt 0 16 w)⟩,
  ⟨0x0E708000#32, 0x08500000#32, fun c w => .ldm2 c (modeAt w) (regAt 16 w) (fieldAt 0 16 w)⟩,
  ⟨0x0E500000#32, 0x08000000#32, fun c w => .stm1 c (modeAt w) (flagAt 21 w) (regAt 16 w) (fieldAt 0 16 w)⟩,
  ⟨0x0E700000#32, 0x08400000#32, fun c w => .stm2 c (modeAt w) (regAt 16 w) (fieldAt 0 16 w)⟩]

/-- Rows of SWP, SWPB, SWI and the three undefined spaces (48_swap.md, 49_swi.md, 30_encoding.md R127, R128). -/
def otherRows : List Row := [
  ⟨0x0FF00FF0#32, 0x01000090#32, fun c w => .swp c (regAt 12 w) (regAt 0 w) (regAt 16 w)⟩,
  ⟨0x0FF00FF0#32, 0x01400090#32, fun c w => .swpb c (regAt 12 w) (regAt 0 w) (regAt 16 w)⟩,
  ⟨0x0F000000#32, 0x0F000000#32, fun c w => .swi c (fieldAt 0 24 w)⟩,
  ⟨0x0E000010#32, 0x06000010#32, fun c w => .undefinedSpace c (fieldAt 5 20 w) (fieldAt 0 4 w)⟩,
  ⟨0x0E000000#32, 0x0C000000#32, fun c w => .coprocTransfer c (fieldAt 0 25 w)⟩,
  ⟨0x0F000000#32, 0x0E000000#32, fun c w => .coprocOperation c (fieldAt 0 24 w)⟩]

/-- The whole table: the 111 instruction rows and the three undefined spaces (30_encoding.md R101). -/
def table : List Row :=
  moveRows ++ arithmeticRows ++ compareRows ++ logicalRows ++ statusRows ++ multiplyRows ++
    branchRows ++ loadRows ++ storeRows ++ blockRows ++ otherRows

/-- Does the word meet the row's fixed bits (30_encoding.md R101 step 3)? -/
def Row.meets (r : Row) (w : Word) : Bool := w &&& r.mask == r.pattern

/-- The instruction of one word (30_encoding.md R101 steps 2, 3 and 6). -/
def decodeWord (w : Word) : Except DecodeError Instr :=
  match Cond.ofCode (fieldAt 28 4 w) with
  | none => .error .condNV
  | some c =>
    match table.find? (fun r => r.meets w) with
    | some r => .ok (r.build c w)
    | none => .error .unallocated

/-- Four bytes as one little-endian word (30_encoding.md R100; 20_memory.md R71). -/
def wordOfBytes (b0 b1 b2 b3 : Byte) : Word := b3 ++ b2 ++ b1 ++ b0

/-- The instruction at the head of a list of bytes (lowest address first). -/
def decode : List Byte → Except DecodeError Instr
  | b0 :: b1 :: b2 :: b3 :: _ => decodeWord (wordOfBytes b0 b1 b2 b3)
  | _ => .error .truncated

/-! ## The encoder -/

/-- The word of a well-formed instruction (30_encoding.md R103 to R120, R127, R128). -/
def encodeWord : Instr → Word
  | .movImm c sf rd rot imm =>
    0x03A00000#32 ||| place 28 c.code ||| placeFlag 20 sf ||| place 12 rd.code ||| place 8 rot ||| place 0 imm
  | .movShiftImm c sf rd rm sh amt =>
    0x01A00000#32 ||| place 28 c.code ||| placeFlag 20 sf ||| place 12 rd.code ||| place 0 rm.code ||| place 5 sh.code ||| place 7 amt
  | .movShiftReg c sf rd rm sh rs =>
    0x01A00010#32 ||| place 28 c.code ||| placeFlag 20 sf ||| place 12 rd.code ||| place 0 rm.code ||| place 5 sh.code ||| place 8 rs.code
  | .mvnImm c sf rd rot imm =>
    0x03E00000#32 ||| place 28 c.code ||| placeFlag 20 sf ||| place 12 rd.code ||| place 8 rot ||| place 0 imm
  | .mvnShiftImm c sf rd rm sh amt =>
    0x01E00000#32 ||| place 28 c.code ||| placeFlag 20 sf ||| place 12 rd.code ||| place 0 rm.code ||| place 5 sh.code ||| place 7 amt
  | .mvnShiftReg c sf rd rm sh rs =>
    0x01E00010#32 ||| place 28 c.code ||| placeFlag 20 sf ||| place 12 rd.code ||| place 0 rm.code ||| place 5 sh.code ||| place 8 rs.code
  | .addImm c sf rd rn rot imm =>
    0x02800000#32 ||| place 28 c.code ||| placeFlag 20 sf ||| place 12 rd.code ||| place 16 rn.code ||| place 8 rot ||| place 0 imm
  | .addShiftImm c sf rd rn rm sh amt =>
    0x00800000#32 ||| place 28 c.code ||| placeFlag 20 sf ||| place 12 rd.code ||| place 16 rn.code ||| place 0 rm.code ||| place 5 sh.code ||| place 7 amt
  | .addShiftReg c sf rd rn rm sh rs =>
    0x00800010#32 ||| place 28 c.code ||| placeFlag 20 sf ||| place 12 rd.code ||| place 16 rn.code ||| place 0 rm.code ||| place 5 sh.code ||| place 8 rs.code
  | .adcImm c sf rd rn rot imm =>
    0x02A00000#32 ||| place 28 c.code ||| placeFlag 20 sf ||| place 12 rd.code ||| place 16 rn.code ||| place 8 rot ||| place 0 imm
  | .adcShiftImm c sf rd rn rm sh amt =>
    0x00A00000#32 ||| place 28 c.code ||| placeFlag 20 sf ||| place 12 rd.code ||| place 16 rn.code ||| place 0 rm.code ||| place 5 sh.code ||| place 7 amt
  | .adcShiftReg c sf rd rn rm sh rs =>
    0x00A00010#32 ||| place 28 c.code ||| placeFlag 20 sf ||| place 12 rd.code ||| place 16 rn.code ||| place 0 rm.code ||| place 5 sh.code ||| place 8 rs.code
  | .subImm c sf rd rn rot imm =>
    0x02400000#32 ||| place 28 c.code ||| placeFlag 20 sf ||| place 12 rd.code ||| place 16 rn.code ||| place 8 rot ||| place 0 imm
  | .subShiftImm c sf rd rn rm sh amt =>
    0x00400000#32 ||| place 28 c.code ||| placeFlag 20 sf ||| place 12 rd.code ||| place 16 rn.code ||| place 0 rm.code ||| place 5 sh.code ||| place 7 amt
  | .subShiftReg c sf rd rn rm sh rs =>
    0x00400010#32 ||| place 28 c.code ||| placeFlag 20 sf ||| place 12 rd.code ||| place 16 rn.code ||| place 0 rm.code ||| place 5 sh.code ||| place 8 rs.code
  | .sbcImm c sf rd rn rot imm =>
    0x02C00000#32 ||| place 28 c.code ||| placeFlag 20 sf ||| place 12 rd.code ||| place 16 rn.code ||| place 8 rot ||| place 0 imm
  | .sbcShiftImm c sf rd rn rm sh amt =>
    0x00C00000#32 ||| place 28 c.code ||| placeFlag 20 sf ||| place 12 rd.code ||| place 16 rn.code ||| place 0 rm.code ||| place 5 sh.code ||| place 7 amt
  | .sbcShiftReg c sf rd rn rm sh rs =>
    0x00C00010#32 ||| place 28 c.code ||| placeFlag 20 sf ||| place 12 rd.code ||| place 16 rn.code ||| place 0 rm.code ||| place 5 sh.code ||| place 8 rs.code
  | .rsbImm c sf rd rn rot imm =>
    0x02600000#32 ||| place 28 c.code ||| placeFlag 20 sf ||| place 12 rd.code ||| place 16 rn.code ||| place 8 rot ||| place 0 imm
  | .rsbShiftImm c sf rd rn rm sh amt =>
    0x00600000#32 ||| place 28 c.code ||| placeFlag 20 sf ||| place 12 rd.code ||| place 16 rn.code ||| place 0 rm.code ||| place 5 sh.code ||| place 7 amt
  | .rsbShiftReg c sf rd rn rm sh rs =>
    0x00600010#32 ||| place 28 c.code ||| placeFlag 20 sf ||| place 12 rd.code ||| place 16 rn.code ||| place 0 rm.code ||| place 5 sh.code ||| place 8 rs.code
  | .rscImm c sf rd rn rot imm =>
    0x02E00000#32 ||| place 28 c.code ||| placeFlag 20 sf ||| place 12 rd.code ||| place 16 rn.code ||| place 8 rot ||| place 0 imm
  | .rscShiftImm c sf rd rn rm sh amt =>
    0x00E00000#32 ||| place 28 c.code ||| placeFlag 20 sf ||| place 12 rd.code ||| place 16 rn.code ||| place 0 rm.code ||| place 5 sh.code ||| place 7 amt
  | .rscShiftReg c sf rd rn rm sh rs =>
    0x00E00010#32 ||| place 28 c.code ||| placeFlag 20 sf ||| place 12 rd.code ||| place 16 rn.code ||| place 0 rm.code ||| place 5 sh.code ||| place 8 rs.code
  | .cmpImm c rn rot imm =>
    0x03500000#32 ||| place 28 c.code ||| place 16 rn.code ||| place 8 rot ||| place 0 imm
  | .cmpShiftImm c rn rm sh amt =>
    0x01500000#32 ||| place 28 c.code ||| place 16 rn.code ||| place 0 rm.code ||| place 5 sh.code ||| place 7 amt
  | .cmpShiftReg c rn rm sh rs =>
    0x01500010#32 ||| place 28 c.code ||| place 16 rn.code ||| place 0 rm.code ||| place 5 sh.code ||| place 8 rs.code
  | .cmnImm c rn rot imm =>
    0x03700000#32 ||| place 28 c.code ||| place 16 rn.code ||| place 8 rot ||| place 0 imm
  | .cmnShiftImm c rn rm sh amt =>
    0x01700000#32 ||| place 28 c.code ||| place 16 rn.code ||| place 0 rm.code ||| place 5 sh.code ||| place 7 amt
  | .cmnShiftReg c rn rm sh rs =>
    0x01700010#32 ||| place 28 c.code ||| place 16 rn.code ||| place 0 rm.code ||| place 5 sh.code ||| place 8 rs.code
  | .tstImm c rn rot imm =>
    0x03100000#32 ||| place 28 c.code ||| place 16 rn.code ||| place 8 rot ||| place 0 imm
  | .tstShiftImm c rn rm sh amt =>
    0x01100000#32 ||| place 28 c.code ||| place 16 rn.code ||| place 0 rm.code ||| place 5 sh.code ||| place 7 amt
  | .tstShiftReg c rn rm sh rs =>
    0x01100010#32 ||| place 28 c.code ||| place 16 rn.code ||| place 0 rm.code ||| place 5 sh.code ||| place 8 rs.code
  | .teqImm c rn rot imm =>
    0x03300000#32 ||| place 28 c.code ||| place 16 rn.code ||| place 8 rot ||| place 0 imm
  | .teqShiftImm c rn rm sh amt =>
    0x01300000#32 ||| place 28 c.code ||| place 16 rn.code ||| place 0 rm.code ||| place 5 sh.code ||| place 7 amt
  | .teqShiftReg c rn rm sh rs =>
    0x01300010#32 ||| place 28 c.code ||| place 16 rn.code ||| place 0 rm.code ||| place 5 sh.code ||| place 8 rs.code
  | .andImm c sf rd rn rot imm =>
    0x02000000#32 ||| place 28 c.code ||| placeFlag 20 sf ||| place 12 rd.code ||| place 16 rn.code ||| place 8 rot ||| place 0 imm
  | .andShiftImm c sf rd rn rm sh amt =>
    0x00000000#32 ||| place 28 c.code ||| placeFlag 20 sf ||| place 12 rd.code ||| place 16 rn.code ||| place 0 rm.code ||| place 5 sh.code ||| place 7 amt
  | .andShiftReg c sf rd rn rm sh rs =>
    0x00000010#32 ||| place 28 c.code ||| placeFlag 20 sf ||| place 12 rd.code ||| place 16 rn.code ||| place 0 rm.code ||| place 5 sh.code ||| place 8 rs.code
  | .eorImm c sf rd rn rot imm =>
    0x02200000#32 ||| place 28 c.code ||| placeFlag 20 sf ||| place 12 rd.code ||| place 16 rn.code ||| place 8 rot ||| place 0 imm
  | .eorShiftImm c sf rd rn rm sh amt =>
    0x00200000#32 ||| place 28 c.code ||| placeFlag 20 sf ||| place 12 rd.code ||| place 16 rn.code ||| place 0 rm.code ||| place 5 sh.code ||| place 7 amt
  | .eorShiftReg c sf rd rn rm sh rs =>
    0x00200010#32 ||| place 28 c.code ||| placeFlag 20 sf ||| place 12 rd.code ||| place 16 rn.code ||| place 0 rm.code ||| place 5 sh.code ||| place 8 rs.code
  | .orrImm c sf rd rn rot imm =>
    0x03800000#32 ||| place 28 c.code ||| placeFlag 20 sf ||| place 12 rd.code ||| place 16 rn.code ||| place 8 rot ||| place 0 imm
  | .orrShiftImm c sf rd rn rm sh amt =>
    0x01800000#32 ||| place 28 c.code ||| placeFlag 20 sf ||| place 12 rd.code ||| place 16 rn.code ||| place 0 rm.code ||| place 5 sh.code ||| place 7 amt
  | .orrShiftReg c sf rd rn rm sh rs =>
    0x01800010#32 ||| place 28 c.code ||| placeFlag 20 sf ||| place 12 rd.code ||| place 16 rn.code ||| place 0 rm.code ||| place 5 sh.code ||| place 8 rs.code
  | .bicImm c sf rd rn rot imm =>
    0x03C00000#32 ||| place 28 c.code ||| placeFlag 20 sf ||| place 12 rd.code ||| place 16 rn.code ||| place 8 rot ||| place 0 imm
  | .bicShiftImm c sf rd rn rm sh amt =>
    0x01C00000#32 ||| place 28 c.code ||| placeFlag 20 sf ||| place 12 rd.code ||| place 16 rn.code ||| place 0 rm.code ||| place 5 sh.code ||| place 7 amt
  | .bicShiftReg c sf rd rn rm sh rs =>
    0x01C00010#32 ||| place 28 c.code ||| placeFlag 20 sf ||| place 12 rd.code ||| place 16 rn.code ||| place 0 rm.code ||| place 5 sh.code ||| place 8 rs.code
  | .mrsCpsr c rd =>
    0x010F0000#32 ||| place 28 c.code ||| place 12 rd.code
  | .mrsSpsr c rd =>
    0x014F0000#32 ||| place 28 c.code ||| place 12 rd.code
  | .msrCpsrReg c mask rm =>
    0x0120F000#32 ||| place 28 c.code ||| place 16 mask ||| place 0 rm.code
  | .msrSpsrReg c mask rm =>
    0x0160F000#32 ||| place 28 c.code ||| place 16 mask ||| place 0 rm.code
  | .msrCpsrImm c mask rot imm =>
    0x0320F000#32 ||| place 28 c.code ||| place 16 mask ||| place 8 rot ||| place 0 imm
  | .msrSpsrImm c mask rot imm =>
    0x0360F000#32 ||| place 28 c.code ||| place 16 mask ||| place 8 rot ||| place 0 imm
  | .mul c sf rd rm rs =>
    0x00000090#32 ||| place 28 c.code ||| placeFlag 20 sf ||| place 16 rd.code ||| place 0 rm.code ||| place 8 rs.code
  | .mla c sf rd rm rs rn =>
    0x00200090#32 ||| place 28 c.code ||| placeFlag 20 sf ||| place 16 rd.code ||| place 0 rm.code ||| place 8 rs.code ||| place 12 rn.code
  | .umull c sf rdLo rdHi rm rs =>
    0x00800090#32 ||| place 28 c.code ||| placeFlag 20 sf ||| place 12 rdLo.code ||| place 16 rdHi.code ||| place 0 rm.code ||| place 8 rs.code
  | .umlal c sf rdLo rdHi rm rs =>
    0x00A00090#32 ||| place 28 c.code ||| placeFlag 20 sf ||| place 12 rdLo.code ||| place 16 rdHi.code ||| place 0 rm.code ||| place 8 rs.code
  | .smull c sf rdLo rdHi rm rs =>
    0x00C00090#32 ||| place 28 c.code ||| placeFlag 20 sf ||| place 12 rdLo.code ||| place 16 rdHi.code ||| place 0 rm.code ||| place 8 rs.code
  | .smlal c sf rdLo rdHi rm rs =>
    0x00E00090#32 ||| place 28 c.code ||| placeFlag 20 sf ||| place 12 rdLo.code ||| place 16 rdHi.code ||| place 0 rm.code ||| place 8 rs.code
  | .b c imm =>
    0x0A000000#32 ||| place 28 c.code ||| place 0 imm
  | .bl c imm =>
    0x0B000000#32 ||| place 28 c.code ||| place 0 imm
  | .bx c rn =>
    0x012FFF10#32 ||| place 28 c.code ||| place 0 rn.code
  | .ldrImm c up wb rd rn off =>
    0x05100000#32 ||| place 28 c.code ||| placeFlag 23 up ||| placeFlag 21 wb ||| place 12 rd.code ||| place 16 rn.code ||| place 0 off
  | .ldrImmPost c up rd rn off =>
    0x04100000#32 ||| place 28 c.code ||| placeFlag 23 up ||| place 12 rd.code ||| place 16 rn.code ||| place 0 off
  | .ldrReg c up wb rd rn rm sh amt =>
    0x07100000#32 ||| place 28 c.code ||| placeFlag 23 up ||| placeFlag 21 wb ||| place 12 rd.code ||| place 16 rn.code ||| place 0 rm.code ||| place 5 sh.code ||| place 7 amt
  | .ldrRegPost c up rd rn rm sh amt =>
    0x06100000#32 ||| place 28 c.code ||| placeFlag 23 up ||| place 12 rd.code ||| place 16 rn.code ||| place 0 rm.code ||| place 5 sh.code ||| place 7 amt
  | .ldrtImm c up rd rn off =>
    0x04300000#32 ||| place 28 c.code ||| placeFlag 23 up ||| place 12 rd.code ||| place 16 rn.code ||| place 0 off
  | .ldrtReg c up rd rn rm sh amt =>
    0x06300000#32 ||| place 28 c.code ||| placeFlag 23 up ||| place 12 rd.code ||| place 16 rn.code ||| place 0 rm.code ||| place 5 sh.code ||| place 7 amt
  | .ldrbImm c up wb rd rn off =>
    0x05500000#32 ||| place 28 c.code ||| placeFlag 23 up ||| placeFlag 21 wb ||| place 12 rd.code ||| place 16 rn.code ||| place 0 off
  | .ldrbImmPost c up rd rn off =>
    0x04500000#32 ||| place 28 c.code ||| placeFlag 23 up ||| place 12 rd.code ||| place 16 rn.code ||| place 0 off
  | .ldrbReg c up wb rd rn rm sh amt =>
    0x07500000#32 ||| place 28 c.code ||| placeFlag 23 up ||| placeFlag 21 wb ||| place 12 rd.code ||| place 16 rn.code ||| place 0 rm.code ||| place 5 sh.code ||| place 7 amt
  | .ldrbRegPost c up rd rn rm sh amt =>
    0x06500000#32 ||| place 28 c.code ||| placeFlag 23 up ||| place 12 rd.code ||| place 16 rn.code ||| place 0 rm.code ||| place 5 sh.code ||| place 7 amt
  | .ldrbtImm c up rd rn off =>
    0x04700000#32 ||| place 28 c.code ||| placeFlag 23 up ||| place 12 rd.code ||| place 16 rn.code ||| place 0 off
  | .ldrbtReg c up rd rn rm sh amt =>
    0x06700000#32 ||| place 28 c.code ||| placeFlag 23 up ||| place 12 rd.code ||| place 16 rn.code ||| place 0 rm.code ||| place 5 sh.code ||| place 7 amt
  | .ldrsbImm c up wb rd rn off =>
    0x015000D0#32 ||| place 28 c.code ||| placeFlag 23 up ||| placeFlag 21 wb ||| place 12 rd.code ||| place 16 rn.code ||| placeOffset8 off
  | .ldrsbImmPost c up rd rn off =>
    0x005000D0#32 ||| place 28 c.code ||| placeFlag 23 up ||| place 12 rd.code ||| place 16 rn.code ||| placeOffset8 off
  | .ldrsbReg c up wb rd rn rm =>
    0x011000D0#32 ||| place 28 c.code ||| placeFlag 23 up ||| placeFlag 21 wb ||| place 12 rd.code ||| place 16 rn.code ||| place 0 rm.code
  | .ldrsbRegPost c up rd rn rm =>
    0x001000D0#32 ||| place 28 c.code ||| placeFlag 23 up ||| place 12 rd.code ||| place 16 rn.code ||| place 0 rm.code
  | .ldrhImm c up wb rd rn off =>
    0x015000B0#32 ||| place 28 c.code ||| placeFlag 23 up ||| placeFlag 21 wb ||| place 12 rd.code ||| place 16 rn.code ||| placeOffset8 off
  | .ldrhImmPost c up rd rn off =>
    0x005000B0#32 ||| place 28 c.code ||| placeFlag 23 up ||| place 12 rd.code ||| place 16 rn.code ||| placeOffset8 off
  | .ldrhReg c up wb rd rn rm =>
    0x011000B0#32 ||| place 28 c.code ||| placeFlag 23 up ||| placeFlag 21 wb ||| place 12 rd.code ||| place 16 rn.code ||| place 0 rm.code
  | .ldrhRegPost c up rd rn rm =>
    0x001000B0#32 ||| place 28 c.code ||| placeFlag 23 up ||| place 12 rd.code ||| place 16 rn.code ||| place 0 rm.code
  | .ldrshImm c up wb rd rn off =>
    0x015000F0#32 ||| place 28 c.code ||| placeFlag 23 up ||| placeFlag 21 wb ||| place 12 rd.code ||| place 16 rn.code ||| placeOffset8 off
  | .ldrshImmPost c up rd rn off =>
    0x005000F0#32 ||| place 28 c.code ||| placeFlag 23 up ||| place 12 rd.code ||| place 16 rn.code ||| placeOffset8 off
  | .ldrshReg c up wb rd rn rm =>
    0x011000F0#32 ||| place 28 c.code ||| placeFlag 23 up ||| placeFlag 21 wb ||| place 12 rd.code ||| place 16 rn.code ||| place 0 rm.code
  | .ldrshRegPost c up rd rn rm =>
    0x001000F0#32 ||| place 28 c.code ||| placeFlag 23 up ||| place 12 rd.code ||| place 16 rn.code ||| place 0 rm.code
  | .ldm1 c mode wb rn list =>
    0x08100000#32 ||| place 28 c.code ||| place 23 mode.code ||| placeFlag 21 wb ||| place 16 rn.code ||| place 0 list
  | .ldm3 c mode wb rn list =>
    0x08508000#32 ||| place 28 c.code ||| place 23 mode.code ||| placeFlag 21 wb ||| place 16 rn.code ||| place 0 list
  | .ldm2 c mode rn list =>
    0x08500000#32 ||| place 28 c.code ||| place 23 mode.code ||| place 16 rn.code ||| place 0 list
  | .strImm c up wb rd rn off =>
    0x05000000#32 ||| place 28 c.code ||| placeFlag 23 up ||| placeFlag 21 wb ||| place 12 rd.code ||| place 16 rn.code ||| place 0 off
  | .strImmPost c up rd rn off =>
    0x04000000#32 ||| place 28 c.code ||| placeFlag 23 up ||| place 12 rd.code ||| place 16 rn.code ||| place 0 off
  | .strReg c up wb rd rn rm sh amt =>
    0x07000000#32 ||| place 28 c.code ||| placeFlag 23 up ||| placeFlag 21 wb ||| place 12 rd.code ||| place 16 rn.code ||| place 0 rm.code ||| place 5 sh.code ||| place 7 amt
  | .strRegPost c up rd rn rm sh amt =>
    0x06000000#32 ||| place 28 c.code ||| placeFlag 23 up ||| place 12 rd.code ||| place 16 rn.code ||| place 0 rm.code ||| place 5 sh.code ||| place 7 amt
  | .strtImm c up rd rn off =>
    0x04200000#32 ||| place 28 c.code ||| placeFlag 23 up ||| place 12 rd.code ||| place 16 rn.code ||| place 0 off
  | .strtReg c up rd rn rm sh amt =>
    0x06200000#32 ||| place 28 c.code ||| placeFlag 23 up ||| place 12 rd.code ||| place 16 rn.code ||| place 0 rm.code ||| place 5 sh.code ||| place 7 amt
  | .strbImm c up wb rd rn off =>
    0x05400000#32 ||| place 28 c.code ||| placeFlag 23 up ||| placeFlag 21 wb ||| place 12 rd.code ||| place 16 rn.code ||| place 0 off
  | .strbImmPost c up rd rn off =>
    0x04400000#32 ||| place 28 c.code ||| placeFlag 23 up ||| place 12 rd.code ||| place 16 rn.code ||| place 0 off
  | .strbReg c up wb rd rn rm sh amt =>
    0x07400000#32 ||| place 28 c.code ||| placeFlag 23 up ||| placeFlag 21 wb ||| place 12 rd.code ||| place 16 rn.code ||| place 0 rm.code ||| place 5 sh.code ||| place 7 amt
  | .strbRegPost c up rd rn rm sh amt =>
    0x06400000#32 ||| place 28 c.code ||| placeFlag 23 up ||| place 12 rd.code ||| place 16 rn.code ||| place 0 rm.code ||| place 5 sh.code ||| place 7 amt
  | .strbtImm c up rd rn off =>
    0x04600000#32 ||| place 28 c.code ||| placeFlag 23 up ||| place 12 rd.code ||| place 16 rn.code ||| place 0 off
  | .strbtReg c up rd rn rm sh amt =>
    0x06600000#32 ||| place 28 c.code ||| placeFlag 23 up ||| place 12 rd.code ||| place 16 rn.code ||| place 0 rm.code ||| place 5 sh.code ||| place 7 amt
  | .strhImm c up wb rd rn off =>
    0x014000B0#32 ||| place 28 c.code ||| placeFlag 23 up ||| placeFlag 21 wb ||| place 12 rd.code ||| place 16 rn.code ||| placeOffset8 off
  | .strhImmPost c up rd rn off =>
    0x004000B0#32 ||| place 28 c.code ||| placeFlag 23 up ||| place 12 rd.code ||| place 16 rn.code ||| placeOffset8 off
  | .strhReg c up wb rd rn rm =>
    0x010000B0#32 ||| place 28 c.code ||| placeFlag 23 up ||| placeFlag 21 wb ||| place 12 rd.code ||| place 16 rn.code ||| place 0 rm.code
  | .strhRegPost c up rd rn rm =>
    0x000000B0#32 ||| place 28 c.code ||| placeFlag 23 up ||| place 12 rd.code ||| place 16 rn.code ||| place 0 rm.code
  | .stm1 c mode wb rn list =>
    0x08000000#32 ||| place 28 c.code ||| place 23 mode.code ||| placeFlag 21 wb ||| place 16 rn.code ||| place 0 list
  | .stm2 c mode rn list =>
    0x08400000#32 ||| place 28 c.code ||| place 23 mode.code ||| place 16 rn.code ||| place 0 list
  | .swp c rd rm rn =>
    0x01000090#32 ||| place 28 c.code ||| place 12 rd.code ||| place 0 rm.code ||| place 16 rn.code
  | .swpb c rd rm rn =>
    0x01400090#32 ||| place 28 c.code ||| place 12 rd.code ||| place 0 rm.code ||| place 16 rn.code
  | .swi c imm =>
    0x0F000000#32 ||| place 28 c.code ||| place 0 imm
  | .undefinedSpace c hi lo =>
    0x06000010#32 ||| place 28 c.code ||| place 5 hi ||| place 0 lo
  | .coprocTransfer c rest =>
    0x0C000000#32 ||| place 28 c.code ||| place 0 rest
  | .coprocOperation c rest =>
    0x0E000000#32 ||| place 28 c.code ||| place 0 rest

/-- The bytes of a word, lowest address first (20_memory.md R71). -/
def bytesOfWord (w : Word) : List Byte :=
  [w.extractLsb' 0 8, w.extractLsb' 8 8, w.extractLsb' 16 8, w.extractLsb' 24 8]

/-- The bytes of a well-formed instruction as they lie in memory. -/
def encode (i : Instr) : List Byte := bytesOfWord (encodeWord i)

/-- The word whose low `nbits` bits are `w`, every bit above them 0. -/
def tableWord (nbits w : Nat) : Word := BitVec.ofNat 32 (w % 2 ^ nbits)

/-- The instruction the decoder reads from an instruction whose bits are `w`, numbered as the opcode table numbers
them: one little-endian word. -/
def decodeTableWord (nbits w : Nat) : Option Instr :=
  match decode (bytesOfWord (tableWord nbits w)) with
  | .ok i => some i
  | .error _ => none

end Sys2Proof
end

