-- ==== Sys2Proof/Config.lean ====
section
/-! DEFINITION. What the spec fixes for this machine (00_scope.md R6) and the free values: constants without a
body, so that nothing can be proved of them. The parameters R6 leaves OPEN are plain data in the state. -/

namespace Sys2Proof.Config

/-- `VECTOR_BASE` (00_scope.md R6, 20_memory.md R79). -/
def vectorBase : Word := 0x00000000#32

/-- What a byte of memory reads as that nothing has written: DESIGN CHOICE, log 4 (unsafe). -/
def unlistedByte : Byte := 0x00#8

/-- The `k`-th free bit of a run: 43_multiply.md R217 (`MULS_CV_POLICY` = draw) and the flags after Reset
(10_state.md R49). Log 12. -/
opaque freeBit : Nat → Bool

/-- The `k`-th free word of a run: an "unspecified value" of 47_load_store_multiple.md R313 or 10_state.md R49.
Logs 13 and 14. -/
opaque freeWord : Nat → Word

end Sys2Proof.Config
end

