-- ==== Sys2Proof/Machine/State.lean ====
section
/-! DEFINITION. The state of the machine as plain data (10_state.md R30), the parameters 00_scope.md R6 leaves open
(plain data too, log 16), the reasons a step can stop, and the state after reset (R49). -/

namespace Sys2Proof.Machine

/-- The five exception modes: those with banked R13 and R14 and an SPSR of their own (10_state.md R32, R43). -/
inductive ExcMode where
  | fiq | irq | svc | abt | und
deriving DecidableEq, Repr

/-- The seven processor modes (10_state.md R42). -/
inductive Mode where
  | user
  | system
  | exc (e : ExcMode)
deriving DecidableEq, Repr

/-- One value for each exception mode. -/
structure Banked (α : Type) where
  fiq : α
  irq : α
  svc : α
  abt : α
  und : α
deriving DecidableEq, Repr

/-- The 30 general registers behind R0 to R14 (10_state.md R32); the pc is the 31st. -/
structure RegFile where
  /-- R0 to R14 of the User bank -/
  user : Vector Word 15
  /-- R8_fiq to R12_fiq -/
  fiqHigh : Vector Word 5
  /-- R13_fiq, R13_irq, R13_svc, R13_abt, R13_und -/
  r13 : Banked Word
  /-- R14_fiq, R14_irq, R14_svc, R14_abt, R14_und -/
  r14 : Banked Word
deriving DecidableEq, Repr

/-- The name of one of those 30 registers (10_state.md R32). -/
inductive PhysReg where
  | user (n : Fin 15)
  | fiqHigh (n : Fin 5)
  | r13 (e : ExcMode)
  | r14 (e : ExcMode)
deriving DecidableEq, Repr

/-- A program status register as its fields (10_state.md R39, R45: bits [27:8] are not modelled). The mode field is a
`Mode` in the CPSR (R42) and any five bits in an SPSR (41_move_psr.md R168). -/
structure Psr (μ : Type) where
  n : Bool
  z : Bool
  c : Bool
  v : Bool
  i : Bool
  f : Bool
  t : Bool
  m : μ
deriving DecidableEq, Repr

/-- A saved program status register (10_state.md R43). -/
abbrev Spsr := Psr (BitVec 5)

/-- Memory: the bytes that differ from what an unlisted address reads as, by rising address (20_memory.md R70). -/
abbrev Memory := List Host.Cell

/-- An inclusive range of byte addresses. -/
structure AddrRange where
  first : Nat
  last : Nat
deriving DecidableEq, Repr

/-- The kind of an access (20_memory.md R80, R81). -/
inductive AccessKind where
  | fetch | read | write
deriving DecidableEq, Repr

/-- One entry of the table that stands for `MemAbort`: accesses of this size, kind and privilege whose address lies in
the range abort (20_memory.md R81; log 9). -/
structure AbortRule where
  range : AddrRange
  size : Nat
  kind : AccessKind
  user : Bool
deriving DecidableEq, Repr

/-- `PC_STORE_OFFSET` when a platform sets it (00_scope.md R6, 46_load_store_single.md R282). -/
inductive PcStoreOffset where
  | plus8 | plus12
deriving DecidableEq, Repr

/-- `ABORT_MODEL` (00_scope.md R6, 46_load_store_single.md R287). -/
inductive AbortModel where
  | restored | updated
deriving DecidableEq, Repr

/-- The parameters of the step that the platform and the launch supply (00_scope.md R6, R17). No step writes them. -/
structure Platform where
  /-- `PC_STORE_OFFSET`; `none` while unset -/
  pcStoreOffset : Option PcStoreOffset
  /-- `ABORT_MODEL` -/
  abortModel : AbortModel
  /-- `MemAbort`, true exactly where a rule says so -/
  abortRules : List AbortRule
  /-- where `MemDefined` is false -/
  absent : List AddrRange
  /-- `CODE_REGION` -/
  codeRegion : List AddrRange
  /-- `END_PC`; `none` while unset -/
  endPc : Option Word
deriving DecidableEq, Repr

/-- The levels of the two interrupt request inputs at one instruction boundary (60_exceptions.md R368). -/
structure LineSample where
  irq : Bool
  fiq : Bool
deriving DecidableEq, Repr

/-- The state of the machine. -/
structure State where
  /-- the general registers (10_state.md R32) -/
  regs : RegFile
  /-- the program counter: the address of the instruction to execute (10_state.md R35) -/
  pc : Word
  /-- the current program status register (10_state.md R39) -/
  cpsr : Psr Mode
  /-- the five saved program status registers (10_state.md R43) -/
  spsr : Banked Spsr
  /-- memory (10_state.md R47) -/
  mem : Memory
  /-- the hazard bit of 10_state.md R48 (e) -/
  afterUserTransfer : Bool
  /-- the interrupt lines at the coming instruction boundaries, the next one first; low when the list is at its end
  (60_exceptions.md R368; log 11) -/
  inputs : List LineSample
  /-- the open parameters (00_scope.md R6; log 16) -/
  platform : Platform
  /-- the model's own: how many free values have been drawn (log 12) -/
  draws : Nat
deriving DecidableEq, Repr

/-- Why the machine stops without a refusal. -/
inductive Fault where
  /-- Raised by `step` alone: `pc = END_PC` at an instruction boundary with no interrupt to take, the normal end of a
  run (00_scope.md R18). Safe: hardware would go on. -/
  | endOfRun
deriving DecidableEq, Repr

/-- The `refuse(reason)` outcomes of the spec (00_scope.md R13, 93_implementation_defined.md Table U), under the
spec's own names. Each is safe: hardware would do something, the model stops. -/
inductive Refusal where
  /-- Raised by `exec` alone, for an instruction without a meaning; no instruction is left without one. Safe. -/
  | notModelled (mnemonic : String)
  /-- T = 1, or a write that would make it 1: raised by the step, BX and the exception returns (10_state.md R41). Safe. -/
  | thumbState
  /-- A jump to an address that is not a multiple of 4: raised by every writer of the pc but B and BL (10_state.md R37).
  Safe. -/
  | unalignedPcWrite
  /-- `pc + 4`, or a link value, past the top of the address space (10_state.md R38): raised by any instruction that
  falls through there, BL and exception entry. Safe. -/
  | pcWrap
  /-- A mode field that is none of the seven modes, about to enter the CPSR: MSR and the exception returns
  (10_state.md R42). Safe. -/
  | illegalMode
  /-- An SPSR named in User or System mode: MRS, MSR and the exception returns (10_state.md R43). Safe. -/
  | noSpsr
  /-- A word or halfword access off its alignment (20_memory.md R75): loads, stores, swaps, block transfers, a fetch.
  Safe. -/
  | unalignedAccess
  /-- An access to a byte for which `MemDefined` is false (20_memory.md R89). Safe. -/
  | undefinedMemory
  /-- A store into `CODE_REGION` (20_memory.md R85). Safe. -/
  | storeToCode
  /-- A block transfer past an end of the address space (20_memory.md R87, 47_load_store_multiple.md R301). Safe. -/
  | addressWrap
  /-- Condition field 1111, raised by the step when it decodes (30_encoding.md R126). Safe. -/
  | condNV
  /-- A word of no row of the table, raised by the step when it decodes (30_encoding.md R129). Safe. -/
  | unallocatedEncoding
  /-- LDM or STM of no register (47_load_store_multiple.md R305). Safe. -/
  | emptyRegisterList
  /-- R15 in a data-processing instruction with a register-specified shift (40_conditions_operand2.md R155). Safe. -/
  | r15WithRegisterShift
  /-- An MSR that would change the T bit (41_move_psr.md R168). Safe. -/
  | msrAltersT
  /-- R15 where it may not stand: MRS, MSR, multiplies, transfers, swaps, a block base (Table U17). Safe. -/
  | r15Operand
  /-- MUL or MLA with Rd = Rm (43_multiply.md R216). Safe. -/
  | mulRdEqualsRm
  /-- A long multiply whose RdHi, RdLo, Rm are not three registers (43_multiply.md R216). Safe. -/
  | mulLongOverlap
  /-- A single transfer that would write back to R15 (46_load_store_single.md R273). Safe. -/
  | writebackToR15
  /-- Write-back to a register the transfer also uses (46_load_store_single.md R273, 47_load_store_multiple.md R305).
  Safe. -/
  | writebackOverlap
  /-- A store of R15 while `PC_STORE_OFFSET` is unset (46_load_store_single.md R282, 47_load_store_multiple.md R305).
  Safe. -/
  | storeOfR15
  /-- LDM (2) or STM (2) in User or System mode (47_load_store_multiple.md R305). Safe. -/
  | userBankInUserMode
  /-- SWP or SWPB whose base is Rd or Rm (48_swap.md R330, R331). Safe. -/
  | swapBaseOverlap
  /-- A banked register named right after LDM (2) or STM (2), raised by the step (70_reset_and_hazards.md R415). Safe. -/
  | bankedAccessAfterUserTransfer
deriving DecidableEq, Repr

/-- The outcome of one instruction or one step (00_scope.md R13). -/
abbrev Result := Host.Outcome State Fault Refusal

/-- The parameters after reset: those the spec gives a default have it (`PC_STORE_OFFSET` unset, `MemAbort` false);
the rest are DESIGN CHOICES, logs 5, 6, 8 and 10. -/
def Platform.default : Platform :=
  { pcStoreOffset := none, abortModel := .restored, abortRules := [], absent := [], codeRegion := [], endPc := none }

/-- The same value in every exception mode. -/
def Banked.same {α : Type} (a : α) : Banked α := ⟨a, a, a, a, a⟩

/-- The machine right after the Reset event (10_state.md R49, 70_reset_and_hazards.md R410). The spec fixes pc, M, I, F
and T; the general registers, the flags and the SPSRs are unspecified there and are 0 here: DESIGN CHOICE, logs 1, 2
and 3 (unsafe). -/
def State.reset : State :=
  { regs := { user := Vector.replicate 15 0#32, fiqHigh := Vector.replicate 5 0#32,
              r13 := Banked.same 0#32, r14 := Banked.same 0#32 }
    pc := Config.vectorBase
    cpsr := { n := false, z := false, c := false, v := false, i := true, f := true, t := false, m := .exc .svc }
    spsr := Banked.same
      { n := false, z := false, c := false, v := false, i := false, f := false, t := false, m := 0#5 }
    mem := []
    afterUserTransfer := false
    inputs := []
    platform := Platform.default
    draws := 0 }

end Sys2Proof.Machine
end

