-- ==== Sys2Proof/Machine/Ops.lean ====
section
/-! DEFINITION. The named operations over registers, status registers, the pc, memory and exceptions, each the
pseudocode primitive of the spec it cites. Meanings are written over these. -/

namespace Sys2Proof.Machine

/-! ## Modes and status registers -/

/-- The mode number M[4:0] (10_state.md R42). -/
def Mode.bits : Mode → BitVec 5
  | .user => 0b10000#5
  | .exc .fiq => 0b10001#5
  | .exc .irq => 0b10010#5
  | .exc .svc => 0b10011#5
  | .exc .abt => 0b10111#5
  | .exc .und => 0b11011#5
  | .system => 0b11111#5

/-- The mode a mode number names; every other number is illegal (10_state.md R42). -/
def Mode.ofBits (b : BitVec 5) : Option Mode :=
  [Mode.user, .system, .exc .fiq, .exc .irq, .exc .svc, .exc .abt, .exc .und].find? (fun m => m.bits == b)

/-- The value of an exception mode. -/
def Banked.get {α : Type} (b : Banked α) : ExcMode → α
  | .fiq => b.fiq
  | .irq => b.irq
  | .svc => b.svc
  | .abt => b.abt
  | .und => b.und

/-- Replace the value of an exception mode. -/
def Banked.set {α : Type} (b : Banked α) (e : ExcMode) (a : α) : Banked α :=
  match e with
  | .fiq => { b with fiq := a }
  | .irq => { b with irq := a }
  | .svc => { b with svc := a }
  | .abt => { b with abt := a }
  | .und => { b with und := a }

/-- The CPSR as an SPSR keeps it (60_exceptions.md R360). -/
def Psr.save (p : Psr Mode) : Spsr :=
  { n := p.n, z := p.z, c := p.c, v := p.v, i := p.i, f := p.f, t := p.t, m := p.m.bits }

/-- The CPSR a saved status register stands for; none if its mode field is illegal (40_conditions_operand2.md R159). -/
def Psr.restore (p : Spsr) : Option (Psr Mode) :=
  (Mode.ofBits p.m).map fun m =>
    { n := p.n, z := p.z, c := p.c, v := p.v, i := p.i, f := p.f, t := p.t, m := m }

/-- A status register as a word, `N:Z:C:V:0:I:F:T:M` (10_state.md R39, R45). -/
def Psr.toWord (p : Spsr) : Word :=
  BitVec.ofBool p.n ++ BitVec.ofBool p.z ++ BitVec.ofBool p.c ++ BitVec.ofBool p.v ++ 0#20 ++
    BitVec.ofBool p.i ++ BitVec.ofBool p.f ++ BitVec.ofBool p.t ++ p.m

/-- The status register a word stands for; bits [27:8] are dropped (10_state.md R45). -/
def Psr.ofWord (w : Word) : Spsr :=
  { n := w.getLsbD 31, z := w.getLsbD 30, c := w.getLsbD 29, v := w.getLsbD 28
    i := w.getLsbD 7, f := w.getLsbD 6, t := w.getLsbD 5, m := w.extractLsb' 0 5 }

/-! ## Registers -/

/-- The register that R`n` names in a mode: the table of 10_state.md R32 and the formula of R33. -/
def physReg (m : Mode) (n : Fin 15) : PhysReg :=
  if n.val ≤ 7 then .user n
  else if h : n.val ≤ 12 then
    match m with
    | .exc .fiq => .fiqHigh ⟨n.val - 8, by omega⟩
    | _ => .user n
  else
    match m with
    | .exc e => if n.val = 13 then .r13 e else .r14 e
    | _ => .user n

/-- Is R`n` a banked register in a mode, that is, one other than the User-bank register (10_state.md R33)? -/
def bankedIn (m : Mode) (n : Fin 15) : Bool := physReg m n != .user n

/-- The contents of a register. -/
def RegFile.get (rf : RegFile) : PhysReg → Word
  | .user n => rf.user[n]
  | .fiqHigh n => rf.fiqHigh[n]
  | .r13 e => rf.r13.get e
  | .r14 e => rf.r14.get e

/-- Replace the contents of a register. -/
def RegFile.set (rf : RegFile) (p : PhysReg) (v : Word) : RegFile :=
  match p with
  | .user n => { rf with user := rf.user.set n v }
  | .fiqHigh n => { rf with fiqHigh := rf.fiqHigh.set n v }
  | .r13 e => { rf with r13 := rf.r13.set e v }
  | .r14 e => { rf with r14 := rf.r14.set e v }

/-- `x[i]` for R0 to R14: the register as the current mode sees it (10_state.md R33). -/
def readGeneral (s : State) (n : Fin 15) : Word := s.regs.get (physReg s.cpsr.m n)

/-- `x[i]`: a register operand, R15 reading as `pc + 8` (10_state.md R33, R36). -/
def readReg (s : State) : Reg → Word
  | .r n => readGeneral s n
  | .pc => s.pc + 8#32

/-- `x[i] <- v` for R0 to R14 (00_scope.md R9, 10_state.md R33). -/
def writeGeneral (s : State) (n : Fin 15) (v : Word) : State :=
  { s with regs := s.regs.set (physReg s.cpsr.m n) v }

/-- `xu[i]`: the User-bank register whatever the mode (10_state.md R34). -/
def readUserBank (s : State) (n : Fin 15) : Word := s.regs.get (.user n)

/-- `xu[i] <- v` (10_state.md R34). -/
def writeUserBank (s : State) (n : Fin 15) (v : Word) : State :=
  { s with regs := s.regs.set (.user n) v }

/-! ## Conditions and the program counter -/

/-- `ConditionPassed(cond)` (40_conditions_operand2.md R140, R141). -/
def conditionPassed (c : Cond) (p : Psr Mode) : Bool :=
  match c with
  | .eq => p.z
  | .ne => !p.z
  | .cs => p.c
  | .cc => !p.c
  | .mi => p.n
  | .pl => !p.n
  | .vs => p.v
  | .vc => !p.v
  | .hi => p.c && !p.z
  | .ls => !p.c || p.z
  | .ge => p.n == p.v
  | .lt => p.n != p.v
  | .gt => !p.z && (p.n == p.v)
  | .le => p.z || (p.n != p.v)
  | .al => true

/-- `pc + k` where it still is an address; past the top of the address space there is none (10_state.md R38). -/
def pcPlus (s : State) (k : Nat) : Option Word :=
  if s.pc.toNat + k < 2 ^ 32 then some (s.pc + BitVec.ofNat 32 k) else none

/-- `pc <- pc + 4`, the end of an instruction that does not write the pc (10_state.md R35, R38). -/
def advance (s : State) : Result :=
  match pcPlus s 4 with
  | some a => .next { s with pc := a }
  | none => .refused .pcWrap

/-- Run `body` if the condition passes; otherwise only advance the pc (40_conditions_operand2.md R142). -/
def whenPassed (c : Cond) (s : State) (body : Result) : Result :=
  if conditionPassed c s.cpsr then body else advance s

/-- Are the two low bits of a word 00? -/
def wordAligned (v : Word) : Bool := v.extractLsb' 0 2 == 0#2

/-- `x[15] <- v`: a jump to a word-aligned address (10_state.md R37). -/
def branchTo (v : Word) (s : State) : Result :=
  if wordAligned v then .next { s with pc := v } else .refused .unalignedPcWrite

/-- Replace the CPSR by the current mode's SPSR and jump: the return from an exception (40_conditions_operand2.md R159,
47_load_store_multiple.md R309, 60_exceptions.md R375). -/
def exceptionReturn (v : Word) (s : State) : Result :=
  match s.cpsr.m with
  | .exc e =>
    if (s.spsr.get e).t then .refused .thumbState
    else
      match Psr.restore (s.spsr.get e) with
      | none => .refused .illegalMode
      | some p => if wordAligned v then .next { s with cpsr := p, pc := v } else .refused .unalignedPcWrite
  | _ => .refused .noSpsr

/-! ## Exceptions (60_exceptions.md R351, R360) -/

/-- The exceptions a step can take; Reset is the launch event (60_exceptions.md R355). -/
inductive Exc where
  | undefined | softwareInterrupt | prefetchAbort | dataAbort | irq | fiq
deriving DecidableEq, Repr

/-- The mode entered (60_exceptions.md R351). -/
def Exc.mode : Exc → ExcMode
  | .undefined => .und
  | .softwareInterrupt => .svc
  | .prefetchAbort => .abt
  | .dataAbort => .abt
  | .irq => .irq
  | .fiq => .fiq

/-- The vector's offset from `VECTOR_BASE` (60_exceptions.md R351, 20_memory.md R79). -/
def Exc.vector : Exc → Word
  | .undefined => 0x04#32
  | .softwareInterrupt => 0x08#32
  | .prefetchAbort => 0x0C#32
  | .dataAbort => 0x10#32
  | .irq => 0x18#32
  | .fiq => 0x1C#32

/-- What is added to the pc to give the link value (60_exceptions.md R351). -/
def Exc.link : Exc → Nat
  | .dataAbort => 8
  | _ => 4

/-- Does entry disable FIQ (60_exceptions.md R351)? -/
def Exc.masksFiq : Exc → Bool
  | .fiq => true
  | _ => false

/-- The state after taking an exception (60_exceptions.md R360): the link in R14 and the CPSR in the SPSR of the new
mode, M, T, I and F as the exception says, the pc at the vector. It clears the hazard bit (70_reset_and_hazards.md
R415). -/
def enterException (e : Exc) (s : State) : State :=
  { s with
    regs := s.regs.set (.r14 e.mode) (s.pc + BitVec.ofNat 32 e.link)
    spsr := s.spsr.set e.mode s.cpsr.save
    cpsr := { s.cpsr with i := true, f := s.cpsr.f || e.masksFiq, t := false, m := .exc e.mode }
    pc := Config.vectorBase + e.vector
    afterUserTransfer := false }

/-- Take an exception, unless its link value would pass the top of the address space (60_exceptions.md R360). -/
def takeException (e : Exc) (s : State) : Result :=
  if s.pc.toNat + e.link < 2 ^ 32 then .next (enterException e s) else .refused .pcWrap

/-- The Reset event (70_reset_and_hazards.md R410, 60_exceptions.md R361): Supervisor mode, both interrupts disabled,
ARM state, the pc at the reset vector; every general register, flag and SPSR unspecified (10_state.md R49), here free
values; memory untouched. Reset is not an input of a step (60_exceptions.md R355; log 14). -/
def resetEntry (s : State) : State :=
  let w (k : Nat) : Word := Config.freeWord (s.draws + k)
  let b (k : Nat) : Bool := Config.freeBit (s.draws + k)
  let psr (k : Nat) : Spsr := Psr.ofWord (w k)
  { s with
    regs := { user := #v[w 0, w 1, w 2, w 3, w 4, w 5, w 6, w 7, w 8, w 9, w 10, w 11, w 12, w 13, w 14]
              fiqHigh := #v[w 15, w 16, w 17, w 18, w 19]
              r13 := ⟨w 20, w 21, w 22, w 23, w 24⟩
              r14 := ⟨w 25, w 26, w 27, w 28, w 29⟩ }
    spsr := ⟨psr 30, psr 31, psr 32, psr 33, psr 34⟩
    cpsr := { n := b 35, z := b 36, c := b 37, v := b 38, i := true, f := true, t := false, m := .exc .svc }
    pc := Config.vectorBase
    afterUserTransfer := false
    draws := s.draws + 39 }

/-! ## Bytes of memory (20_memory.md R70, R71) -/

/-- The byte at an address. -/
def readByte : Memory → Nat → Byte
  | [], _ => Config.unlistedByte
  | (b, v) :: rest, a => if b = a then v else readByte rest a

/-- Put a byte at an address that is not listed, keeping the addresses rising. -/
def insertByte : Memory → Nat → Byte → Memory
  | [], a, v => [(a, v)]
  | (b, w) :: rest, a, v => if a < b then (a, v) :: (b, w) :: rest else (b, w) :: insertByte rest a v

/-- Write the byte at an address. A byte equal to what an unlisted address reads as is not listed. -/
def writeByte (m : Memory) (a : Nat) (v : Byte) : Memory :=
  let others := m.filter fun cell => cell.1 != a
  if v = Config.unlistedByte then others else insertByte others a v

/-- The canonical form: addresses of the space, strictly rising, no entry equal to what an unlisted address reads as. -/
def Memory.wf : Memory → Bool
  | [] => true
  | (a, v) :: rest =>
    v != Config.unlistedByte && decide (a < 2 ^ 32) && rest.all (fun cell => decide (a < cell.1)) && Memory.wf rest

/-- The little-endian value of the `n` bytes from `a` (20_memory.md R71, R72). -/
def loadBytes (m : Memory) (a : Nat) : Nat → Word
  | 0 => 0#32
  | n + 1 => loadBytes m (a + 1) n <<< 8 ||| (readByte m a).setWidth 32

/-- Store the low `8 n` bits of `v`, little-endian, in the `n` bytes from `a` (20_memory.md R73). -/
def storeBytes (m : Memory) (a : Nat) (v : Word) : Nat → Memory
  | 0 => m
  | n + 1 => storeBytes (writeByte m a (v.setWidth 8)) (a + 1) (v >>> 8) n

/-! ## Accesses (20_memory.md R72, R73, R76) -/

/-- The width of a data access (20_memory.md R77). -/
inductive Size where
  | byte | half | word
deriving DecidableEq, Repr

/-- The width in bytes. -/
def Size.bytes : Size → Nat
  | .byte => 1
  | .half => 2
  | .word => 4

/-- Does a range hold an address? -/
def AddrRange.holds (r : AddrRange) (a : Nat) : Bool := decide (r.first ≤ a) && decide (a ≤ r.last)

/-- Does one of the ranges hold one of the `n` addresses from `a`? -/
def touches (rs : List AddrRange) (a n : Nat) : Bool :=
  (List.range n).any fun k => rs.any fun r => r.holds (a + k)

/-- `MemAbort(addr, size, kind, user)` (00_scope.md R6, 20_memory.md R81). -/
def memAborts (p : Platform) (a size : Nat) (kind : AccessKind) (user : Bool) : Bool :=
  p.abortRules.any fun r => r.range.holds a && r.size == size && r.kind == kind && r.user == user

/-- How an access ends: with a value, in an abort, or in a refusal. -/
inductive Access (α : Type) where
  | done (a : α)
  | abort
  | refused (r : Refusal)
deriving DecidableEq, Repr

/-- What refuses an access of either direction: alignment, then `MemDefined` (20_memory.md R72, R73, R75, R89). -/
def accessRefusal (s : State) (addr : Word) (n : Nat) : Option Refusal :=
  if addr.toNat % n != 0 then some .unalignedAccess
  else if touches s.platform.absent addr.toNat n then some .undefinedMemory
  else none

/-- `MemRead(addr, n, user)` (20_memory.md R72). -/
def memRead (s : State) (addr : Word) (sz : Size) (user : Bool) : Access Word :=
  match accessRefusal s addr sz.bytes with
  | some r => .refused r
  | none =>
    if memAborts s.platform addr.toNat sz.bytes .read user then .abort
    else .done (loadBytes s.mem addr.toNat sz.bytes)

/-- `MemWrite(addr, n, v, user)` (20_memory.md R73). -/
def memWrite (s : State) (addr : Word) (sz : Size) (v : Word) (user : Bool) : Access State :=
  match accessRefusal s addr sz.bytes with
  | some r => .refused r
  | none =>
    if touches s.platform.codeRegion addr.toNat sz.bytes then .refused .storeToCode
    else if memAborts s.platform addr.toNat sz.bytes .write user then .abort
    else .done { s with mem := storeBytes s.mem addr.toNat v sz.bytes }

/-- Is the current mode User: the privilege an access presents by default (20_memory.md R80)? -/
def userMode (s : State) : Bool := s.cpsr.m == .user

/-- The four bytes of the instruction at the pc, lowest address first (20_memory.md R76; 60_exceptions.md R371). -/
def fetch (s : State) : Access (List Byte) :=
  if memAborts s.platform s.pc.toNat 4 .fetch (userMode s) then .abort
  else
    match accessRefusal s s.pc 4 with
    | some r => .refused r
    | none => .done ((List.range 4).map fun k => readByte s.mem (s.pc.toNat + k))

/-! ## Free values (log 12) -/

/-- The next free bit, the `k`-th of an instruction. -/
def freeBit (s : State) (k : Nat) : Bool := Config.freeBit (s.draws + k)

/-- The next free word, the `k`-th of an instruction. -/
def freeWord (s : State) (k : Nat) : Word := Config.freeWord (s.draws + k)

end Sys2Proof.Machine
end

