-- ==== Sys2Proof/Machine/Operands.lean ====
section
/-! DEFINITION. The operand forms: operand 2 with its shifts (40_conditions_operand2.md R143 to R155), the offsets and
addresses of single transfers (46_load_store_single.md R266 to R272), the lists and addresses of block transfers
(47_load_store_multiple.md R301). -/

namespace Sys2Proof.Machine

/-! ## Operand 2 -/

/-- `ROR(v, n)` for `n` in 0 .. 31 (00_scope.md R10). -/
def rotateRight (v : Word) (n : Nat) : Word := v >>> n ||| v <<< (32 - n)

/-- Bit 31 copied to every bit: the arithmetic shift right by 32 or more (40_conditions_operand2.md R148, R152). -/
def signFill (v : Word) : Word := if v.msb then 0xFFFFFFFF#32 else 0#32

/-- `#32_Bit_Immed` (30_encoding.md R121, 40_conditions_operand2.md R144). -/
def immediate32 (rot : BitVec 4) (imm : BitVec 8) : Word :=
  rotateRight (imm.setWidth 32) (2 * rot.toNat)

/-- The value and carry-out of a shift by the amount field `amt`: LSL, LSR, ASR, ROR and RRX
(40_conditions_operand2.md R145 to R149, R154). -/
def shiftByImm (sh : Shift) (amt : BitVec 5) (v : Word) (c : Bool) : Word × Bool :=
  let n := amt.toNat
  match sh with
  | .lsl => if n = 0 then (v, c) else (v <<< n, v.getLsbD (32 - n))
  | .lsr => if n = 0 then (0#32, v.msb) else (v >>> n, v.getLsbD (n - 1))
  | .asr => if n = 0 then (signFill v, v.msb) else (v.sshiftRight n, v.getLsbD (n - 1))
  | .ror =>
    if n = 0 then (v >>> 1 ||| (BitVec.ofBool c).setWidth 32 <<< 31, v.getLsbD 0)
    else (rotateRight v n, v.getLsbD (n - 1))

/-- The value and carry-out of a shift by `n`, the low byte of a register (40_conditions_operand2.md R150 to R153). -/
def shiftByReg (sh : Shift) (n : Nat) (v : Word) (c : Bool) : Word × Bool :=
  if n = 0 then (v, c)
  else
    match sh with
    | .lsl =>
      if n < 32 then (v <<< n, v.getLsbD (32 - n)) else if n = 32 then (0#32, v.getLsbD 0) else (0#32, false)
    | .lsr =>
      if n < 32 then (v >>> n, v.getLsbD (n - 1)) else if n = 32 then (0#32, v.msb) else (0#32, false)
    | .asr => if n < 32 then (v.sshiftRight n, v.getLsbD (n - 1)) else (signFill v, v.msb)
    | .ror =>
      if n % 32 = 0 then (v, v.msb) else (rotateRight v (n % 32), v.getLsbD (n % 32 - 1))

/-- The forms of `<Oprnd2>` by their encoding formats (40_conditions_operand2.md R143). -/
inductive Operand2 where
  | imm (rot : BitVec 4) (imm : BitVec 8)
  | shiftImm (rm : Reg) (sh : Shift) (amt : BitVec 5)
  | shiftReg (rm : Reg) (sh : Shift) (rs : Reg)
deriving DecidableEq, Repr

/-- `ShifterOperand()`: the pair `(op2, sco)` (00_scope.md R9, 40_conditions_operand2.md R144 to R154). -/
def shifterOperand (o : Operand2) (s : State) : Word × Bool :=
  match o with
  | .imm rot imm =>
    let v := immediate32 rot imm
    (v, if rot.toNat = 0 then s.cpsr.c else v.msb)
  | .shiftImm rm sh amt => shiftByImm sh amt (readReg s rm) s.cpsr.c
  | .shiftReg rm sh rs => shiftByReg sh ((readReg s rs).extractLsb' 0 8).toNat (readReg s rm) s.cpsr.c

/-- Is the form a register-specified shift, and is one of these registers, `Rm` or `Rs` then R15
(40_conditions_operand2.md R155)? -/
def Operand2.forbidsPc (o : Operand2) (others : List Reg) : Bool :=
  match o with
  | .shiftReg rm _ rs => (rm :: rs :: others).contains .pc
  | _ => false

/-! ## Single transfers -/

/-- The three ways of indexing (46_load_store_single.md R268 to R270). -/
inductive Indexing where
  | plain | preIndexed | postIndexed
deriving DecidableEq, Repr

/-- The indexing of a row with P = 1, by its W bit (30_encoding.md R114). -/
def Indexing.ofW (wb : Bool) : Indexing := if wb then .preIndexed else .plain

/-- Does the form write the base back (46_load_store_single.md R273)? -/
def Indexing.writesBack : Indexing → Bool
  | .plain => false
  | _ => true

/-- The offset forms; a halfword form's register is shifted by LSL #0 (46_load_store_single.md R267). -/
inductive Offset where
  | imm (v : Word)
  | reg (rm : Reg) (sh : Shift) (amt : BitVec 5)
deriving DecidableEq, Repr

/-- A register offset without a shift. -/
def Offset.plainReg (rm : Reg) : Offset := .reg rm .lsl 0#5

/-- The register an offset names. -/
def Offset.register? : Offset → Option Reg
  | .imm _ => none
  | .reg rm _ _ => some rm

/-- `Offset()` (46_load_store_single.md R267). -/
def offsetValue (o : Offset) (s : State) : Word :=
  match o with
  | .imm v => v
  | .reg rm sh amt => (shiftByImm sh amt (readReg s rm) s.cpsr.c).1

/-- The address of the access and the base's new value (46_load_store_single.md R268 to R270, R274). -/
def transferAddress (ix : Indexing) (up : Bool) (rn : Reg) (o : Offset) (s : State) : Word × Word :=
  let base := readReg s rn
  let moved := if up then base + offsetValue o s else base - offsetValue o s
  match ix with
  | .postIndexed => (base, moved)
  | _ => (moved, moved)

/-- The operand restrictions of a single transfer, in the table's order; `pcRule` is what `Rd` = R15 gives
(46_load_store_single.md R273). -/
def transferRefusal (pcRule : Option Refusal) (ix : Indexing) (rn rd : Reg) (o : Offset) : Option Refusal :=
  if o.register? = some .pc then some .r15Operand
  else if ix.writesBack && rn = .pc then some .writebackToR15
  else if ix.writesBack && rd = rn then some .writebackOverlap
  else if ix.writesBack && o.register? = some rn then some .writebackOverlap
  else if rd = .pc then pcRule
  else none

/-- Write the base back if the form does (46_load_store_single.md R274). R15 is no base here (R273). -/
def writeBack (ix : Indexing) (rn : Reg) (v : Word) (s : State) : State :=
  if ix.writesBack then
    match rn with
    | .r n => writeGeneral s n v
    | .pc => s
  else s

/-- What a load writes: the value zero- or sign-extended from its width (46_load_store_single.md R275 to R281). -/
def extendLoaded (sz : Size) (signed : Bool) (v : Word) : Word :=
  match sz, signed with
  | .byte, true => (v.setWidth 8).signExtend 32
  | .half, true => (v.setWidth 16).signExtend 32
  | .byte, false => (v.setWidth 8).setWidth 32
  | .half, false => (v.setWidth 16).setWidth 32
  | .word, _ => v

/-- What a store of R15 writes: `pc + PC_STORE_OFFSET`, none while it is unset (46_load_store_single.md R282). -/
def storedPc (s : State) : Option Word :=
  match s.platform.pcStoreOffset with
  | none => none
  | some .plus8 => some (s.pc + 8#32)
  | some .plus12 => some (s.pc + 12#32)

/-! ## Block transfers -/

/-- The registers in ascending order (10_state.md R31). -/
def allRegs : List Reg :=
  [.r 0, .r 1, .r 2, .r 3, .r 4, .r 5, .r 6, .r 7, .r 8, .r 9, .r 10, .r 11, .r 12, .r 13, .r 14, .pc]

/-- A register's number (10_state.md R31). -/
def regNumber : Reg → Nat
  | .r n => n.val
  | .pc => 15

/-- The listed registers, ascending (30_encoding.md R125, 20_memory.md R88). -/
def listedRegs (list : BitVec 16) : List Reg := allRegs.filter fun r => list.getLsbD (regNumber r)

/-- `start_address` as an unbounded integer, for base `b` and `n` registers (47_load_store_multiple.md R301). -/
def blockStart (mode : BlockMode) (b n : Nat) : Int :=
  match mode with
  | .ia => b
  | .ib => b + 4
  | .da => b - 4 * n + 4
  | .db => b - 4 * n

/-- The written-back value (47_load_store_multiple.md R301). -/
def blockNewBase (mode : BlockMode) (b : Word) (n : Nat) : Word :=
  match mode with
  | .ia | .ib => b + BitVec.ofNat 32 (4 * n)
  | .da | .db => b - BitVec.ofNat 32 (4 * n)

end Sys2Proof.Machine
end

