-- ==== Sys2Proof/Machine/Hazard.lean ====
section
/-! DEFINITION. The hazard after LDM (2) and STM (2): which registers an instruction names (70_reset_and_hazards.md
R415; 10_state.md R48 (e)). -/

namespace Sys2Proof.Machine

/-- The registers an instruction names in the register fields of its format, a register list and a base register
included (70_reset_and_hazards.md R415). -/
def namedRegs : Instr → List Reg
  | .movImm _ _ rd _ _ => [rd]
  | .movShiftImm _ _ rd rm _ _ => [rd, rm]
  | .movShiftReg _ _ rd rm _ rs => [rd, rm, rs]
  | .mvnImm _ _ rd _ _ => [rd]
  | .mvnShiftImm _ _ rd rm _ _ => [rd, rm]
  | .mvnShiftReg _ _ rd rm _ rs => [rd, rm, rs]
  | .addImm _ _ rd rn _ _ => [rd, rn]
  | .addShiftImm _ _ rd rn rm _ _ => [rd, rn, rm]
  | .addShiftReg _ _ rd rn rm _ rs => [rd, rn, rm, rs]
  | .adcImm _ _ rd rn _ _ => [rd, rn]
  | .adcShiftImm _ _ rd rn rm _ _ => [rd, rn, rm]
  | .adcShiftReg _ _ rd rn rm _ rs => [rd, rn, rm, rs]
  | .subImm _ _ rd rn _ _ => [rd, rn]
  | .subShiftImm _ _ rd rn rm _ _ => [rd, rn, rm]
  | .subShiftReg _ _ rd rn rm _ rs => [rd, rn, rm, rs]
  | .sbcImm _ _ rd rn _ _ => [rd, rn]
  | .sbcShiftImm _ _ rd rn rm _ _ => [rd, rn, rm]
  | .sbcShiftReg _ _ rd rn rm _ rs => [rd, rn, rm, rs]
  | .rsbImm _ _ rd rn _ _ => [rd, rn]
  | .rsbShiftImm _ _ rd rn rm _ _ => [rd, rn, rm]
  | .rsbShiftReg _ _ rd rn rm _ rs => [rd, rn, rm, rs]
  | .rscImm _ _ rd rn _ _ => [rd, rn]
  | .rscShiftImm _ _ rd rn rm _ _ => [rd, rn, rm]
  | .rscShiftReg _ _ rd rn rm _ rs => [rd, rn, rm, rs]
  | .cmpImm _ rn _ _ => [rn]
  | .cmpShiftImm _ rn rm _ _ => [rn, rm]
  | .cmpShiftReg _ rn rm _ rs => [rn, rm, rs]
  | .cmnImm _ rn _ _ => [rn]
  | .cmnShiftImm _ rn rm _ _ => [rn, rm]
  | .cmnShiftReg _ rn rm _ rs => [rn, rm, rs]
  | .tstImm _ rn _ _ => [rn]
  | .tstShiftImm _ rn rm _ _ => [rn, rm]
  | .tstShiftReg _ rn rm _ rs => [rn, rm, rs]
  | .teqImm _ rn _ _ => [rn]
  | .teqShiftImm _ rn rm _ _ => [rn, rm]
  | .teqShiftReg _ rn rm _ rs => [rn, rm, rs]
  | .andImm _ _ rd rn _ _ => [rd, rn]
  | .andShiftImm _ _ rd rn rm _ _ => [rd, rn, rm]
  | .andShiftReg _ _ rd rn rm _ rs => [rd, rn, rm, rs]
  | .eorImm _ _ rd rn _ _ => [rd, rn]
  | .eorShiftImm _ _ rd rn rm _ _ => [rd, rn, rm]
  | .eorShiftReg _ _ rd rn rm _ rs => [rd, rn, rm, rs]
  | .orrImm _ _ rd rn _ _ => [rd, rn]
  | .orrShiftImm _ _ rd rn rm _ _ => [rd, rn, rm]
  | .orrShiftReg _ _ rd rn rm _ rs => [rd, rn, rm, rs]
  | .bicImm _ _ rd rn _ _ => [rd, rn]
  | .bicShiftImm _ _ rd rn rm _ _ => [rd, rn, rm]
  | .bicShiftReg _ _ rd rn rm _ rs => [rd, rn, rm, rs]
  | .mrsCpsr _ rd => [rd]
  | .mrsSpsr _ rd => [rd]
  | .msrCpsrReg _ _ rm => [rm]
  | .msrSpsrReg _ _ rm => [rm]
  | .msrCpsrImm _ _ _ _ => []
  | .msrSpsrImm _ _ _ _ => []
  | .mul _ _ rd rm rs => [rd, rm, rs]
  | .mla _ _ rd rm rs rn => [rd, rm, rs, rn]
  | .umull _ _ rdLo rdHi rm rs => [rdLo, rdHi, rm, rs]
  | .umlal _ _ rdLo rdHi rm rs => [rdLo, rdHi, rm, rs]
  | .smull _ _ rdLo rdHi rm rs => [rdLo, rdHi, rm, rs]
  | .smlal _ _ rdLo rdHi rm rs => [rdLo, rdHi, rm, rs]
  | .b _ _ => []
  | .bl _ _ => []
  | .bx _ rn => [rn]
  | .ldrImm _ _ _ rd rn _ => [rd, rn]
  | .ldrImmPost _ _ rd rn _ => [rd, rn]
  | .ldrReg _ _ _ rd rn rm _ _ => [rd, rn, rm]
  | .ldrRegPost _ _ rd rn rm _ _ => [rd, rn, rm]
  | .ldrtImm _ _ rd rn _ => [rd, rn]
  | .ldrtReg _ _ rd rn rm _ _ => [rd, rn, rm]
  | .ldrbImm _ _ _ rd rn _ => [rd, rn]
  | .ldrbImmPost _ _ rd rn _ => [rd, rn]
  | .ldrbReg _ _ _ rd rn rm _ _ => [rd, rn, rm]
  | .ldrbRegPost _ _ rd rn rm _ _ => [rd, rn, rm]
  | .ldrbtImm _ _ rd rn _ => [rd, rn]
  | .ldrbtReg _ _ rd rn rm _ _ => [rd, rn, rm]
  | .ldrsbImm _ _ _ rd rn _ => [rd, rn]
  | .ldrsbImmPost _ _ rd rn _ => [rd, rn]
  | .ldrsbReg _ _ _ rd rn rm => [rd, rn, rm]
  | .ldrsbRegPost _ _ rd rn rm => [rd, rn, rm]
  | .ldrhImm _ _ _ rd rn _ => [rd, rn]
  | .ldrhImmPost _ _ rd rn _ => [rd, rn]
  | .ldrhReg _ _ _ rd rn rm => [rd, rn, rm]
  | .ldrhRegPost _ _ rd rn rm => [rd, rn, rm]
  | .ldrshImm _ _ _ rd rn _ => [rd, rn]
  | .ldrshImmPost _ _ rd rn _ => [rd, rn]
  | .ldrshReg _ _ _ rd rn rm => [rd, rn, rm]
  | .ldrshRegPost _ _ rd rn rm => [rd, rn, rm]
  | .ldm1 _ _ _ rn list => rn :: listedRegs list
  | .ldm3 _ _ _ rn list => rn :: listedRegs list
  | .ldm2 _ _ rn list => rn :: listedRegs list
  | .strImm _ _ _ rd rn _ => [rd, rn]
  | .strImmPost _ _ rd rn _ => [rd, rn]
  | .strReg _ _ _ rd rn rm _ _ => [rd, rn, rm]
  | .strRegPost _ _ rd rn rm _ _ => [rd, rn, rm]
  | .strtImm _ _ rd rn _ => [rd, rn]
  | .strtReg _ _ rd rn rm _ _ => [rd, rn, rm]
  | .strbImm _ _ _ rd rn _ => [rd, rn]
  | .strbImmPost _ _ rd rn _ => [rd, rn]
  | .strbReg _ _ _ rd rn rm _ _ => [rd, rn, rm]
  | .strbRegPost _ _ rd rn rm _ _ => [rd, rn, rm]
  | .strbtImm _ _ rd rn _ => [rd, rn]
  | .strbtReg _ _ rd rn rm _ _ => [rd, rn, rm]
  | .strhImm _ _ _ rd rn _ => [rd, rn]
  | .strhImmPost _ _ rd rn _ => [rd, rn]
  | .strhReg _ _ _ rd rn rm => [rd, rn, rm]
  | .strhRegPost _ _ rd rn rm => [rd, rn, rm]
  | .stm1 _ _ _ rn list => rn :: listedRegs list
  | .stm2 _ _ rn list => rn :: listedRegs list
  | .swp _ rd rm rn => [rd, rm, rn]
  | .swpb _ rd rm rn => [rd, rm, rn]
  | .swi _ _ => []
  | .undefinedSpace _ _ _ => []
  | .coprocTransfer _ _ => []
  | .coprocOperation _ _ => []

/-- Does the instruction name a register that is banked in the mode (70_reset_and_hazards.md R415)? -/
def namesBanked (m : Mode) (i : Instr) : Bool :=
  (namedRegs i).any fun r =>
    match r with
    | .r n => bankedIn m n
    | .pc => false

end Sys2Proof.Machine
end

