-- ==== Sys2Proof/Machine/Boundary.lean ====
section
/-! DEFINITION. What happens at an instruction boundary before an instruction is fetched, and the helpers of the step
(60_exceptions.md R366 to R371; 00_scope.md R18). -/

namespace Sys2Proof.Machine

/-- The levels of the interrupt lines at this boundary: the next sample, both low when there is none (60_exceptions.md
R368; log 11). -/
def currentLines (inputs : List LineSample) : LineSample :=
  match inputs with
  | l :: _ => l
  | [] => { irq := false, fiq := false }

/-- The interrupt to take at this boundary: FIQ before IRQ, each only while its mask bit is clear (60_exceptions.md
R369, R370, R371). -/
def pendingInterrupt (l : LineSample) (p : Psr Mode) : Option Exc :=
  if !p.f && l.fiq then some .fiq
  else if !p.i && l.irq then some .irq
  else none

/-- The boundary passed: its sample comes off the list (60_exceptions.md R368). -/
def consumeInput (s : State) : State := { s with inputs := s.inputs.tail }

/-- What comes before the fetch (60_exceptions.md R371): an interrupt is taken; else the run ends at `END_PC`
(00_scope.md R18); else T = 1 is refused. `none`: the instruction is fetched. -/
def boundary (l : LineSample) (s : State) : Option Result :=
  match pendingInterrupt l s.cpsr with
  | some e => some (takeException e s)
  | none =>
    if s.platform.endPc = some s.pc then some (.fault .endOfRun)
    else if s.cpsr.t then some (.refused .thumbState)
    else none

/-- The refusal of bytes that are no instruction (30_encoding.md R101 steps 2 and 6). A fetch gives four bytes, so
`truncated` does not arise in a step. -/
def decodeRefusal : DecodeError → Refusal
  | .condNV => .condNV
  | .unallocated => .unallocatedEncoding
  | .truncated => .unallocatedEncoding

/-- Right after an LDM (2) or STM (2), an instruction that names a banked register is refused (60_exceptions.md R371,
70_reset_and_hazards.md R415). -/
def hazardRefuses (i : Instr) (s : State) : Bool := s.afterUserTransfer && namesBanked s.cpsr.m i

/-- Any instruction clears the hazard bit before its own effect, which may set it (70_reset_and_hazards.md R415). -/
def clearHazard (s : State) : State := { s with afterUserTransfer := false }

/-- Put an instruction word, little-endian, in the four bytes at the pc (20_memory.md R76). -/
def storeInstruction (w : Word) (s : State) : State := { s with mem := storeBytes s.mem s.pc.toNat w 4 }

end Sys2Proof.Machine
end

