-- ==== Sys2Proof/Machine/Flags.lean ====
section
/-! DEFINITION. What the data-processing instructions compute and how flags are set (42_arithmetic.md R196,
40_conditions_operand2.md R160, R161; 43_multiply.md R217). -/

namespace Sys2Proof.Machine

/-- A result with the carry and overflow an instruction would set. -/
structure AluOut where
  value : Word
  c : Bool
  v : Bool
deriving DecidableEq, Repr

/-- `AddWithCarry(a, b, cin)` (42_arithmetic.md R196, 00_scope.md R11). -/
def addWithCarry (a b : Word) (cin : Bool) : AluOut :=
  let usum := a.toNat + b.toNat + cin.toNat
  let ssum := a.toInt + b.toInt + cin.toNat
  let result := BitVec.ofNat 32 usum
  { value := result, c := decide (2 ^ 32 ≤ usum), v := decide (ssum ≠ result.toInt) }

/-- The sixteen data-processing operations (30_encoding.md R106). -/
inductive AluOp where
  | and | eor | sub | rsb | add | adc | sbc | rsc | tst | teq | cmp | cmn | orr | mov | bic | mvn
deriving DecidableEq, Repr

/-- The function `f` of the skeleton 40_conditions_operand2.md R157: `a` is the first operand, `op2` and `sco` what the
shifter gives, `c` and `v` the flags before. A logical operation takes C from the shifter and leaves V (R160); an
arithmetic one takes both from the adder (R161, 42_arithmetic.md R196). -/
def alu (op : AluOp) (a op2 : Word) (sco c v : Bool) : AluOut :=
  match op with
  | .and => ⟨a &&& op2, sco, v⟩
  | .eor => ⟨a ^^^ op2, sco, v⟩
  | .sub => addWithCarry a (~~~op2) true
  | .rsb => addWithCarry op2 (~~~a) true
  | .add => addWithCarry a op2 false
  | .adc => addWithCarry a op2 c
  | .sbc => addWithCarry a (~~~op2) c
  | .rsc => addWithCarry op2 (~~~a) c
  | .tst => ⟨a &&& op2, sco, v⟩
  | .teq => ⟨a ^^^ op2, sco, v⟩
  | .cmp => addWithCarry a (~~~op2) true
  | .cmn => addWithCarry a op2 false
  | .orr => ⟨a ||| op2, sco, v⟩
  | .mov => ⟨op2, sco, v⟩
  | .bic => ⟨a &&& ~~~op2, sco, v⟩
  | .mvn => ⟨0xFFFFFFFF#32 ^^^ op2, sco, v⟩

/-- Set N, Z, C and V from a result (40_conditions_operand2.md R157). -/
def setFlags (out : AluOut) (s : State) : State :=
  { s with cpsr := { s.cpsr with n := out.value.msb, z := out.value == 0#32, c := out.c, v := out.v } }

/-- The flags of MULS and MLAS: N and Z from the result, C a free bit, V unchanged (43_multiply.md R217; log 12). -/
def setMulFlags (result : Word) (s : State) : State :=
  { s with
    cpsr := { s.cpsr with n := result.msb, z := result == 0#32, c := freeBit s 0 }
    draws := s.draws + 1 }

/-- The flags of a long multiply with S: N and Z from the 64-bit result, C and V free bits (43_multiply.md R217;
log 12). -/
def setMulLongFlags (result : BitVec 64) (s : State) : State :=
  { s with
    cpsr := { s.cpsr with n := result.msb, z := result == 0#64, c := freeBit s 0, v := freeBit s 1 }
    draws := s.draws + 2 }

end Sys2Proof.Machine
end

