-- ==== Sys2Proof/Machine/DataProcessing.lean ====
section
/-! DEFINITION. The common skeleton of the sixteen data-processing instructions (40_conditions_operand2.md R157). -/

namespace Sys2Proof.Machine

/-- The first operand; MOV and MVN have none (40_conditions_operand2.md R157). -/
def firstOperand (rn : Option Reg) (s : State) : Word :=
  match rn with
  | some r => readReg s r
  | none => 0#32

/-- Write the result where the instruction says and set the flags if it has `S`: a general register, the pc without
`S` (R158), the pc with `S` (R159), or nowhere (44_compare_logical.md R238). -/
def finishDataProcessing (sf : Bool) (rd : Option Reg) (out : AluOut) (s : State) : Result :=
  match rd with
  | none => advance (setFlags out s)
  | some (.r n) => advance (writeGeneral (if sf then setFlags out s else s) n out.value)
  | some .pc => if sf then exceptionReturn out.value s else branchTo out.value s

/-- A data-processing instruction (40_conditions_operand2.md R157): `rn` and `rd` are absent where the instruction has
none. -/
def dataProcessing (op : AluOp) (c : Cond) (sf : Bool) (rd rn : Option Reg) (o : Operand2) (s : State) : Result :=
  whenPassed c s <|
    if o.forbidsPc (rd.toList ++ rn.toList) then .refused .r15WithRegisterShift
    else
      let sh := shifterOperand o s
      finishDataProcessing sf rd (alu op (firstOperand rn s) sh.1 sh.2 s.cpsr.c s.cpsr.v) s

end Sys2Proof.Machine
end

