-- ==== Sys2Proof/Machine/Arithmetic.lean ====
section
/-! DEFINITION. ADD, ADC, SUB, SBC, RSB, RSC (42_arithmetic.md R190 to R195) over the skeleton of 40_conditions_operand2.md R157. -/

namespace Sys2Proof.Machine

/-- ADD, operand 2 immediate (42_arithmetic.md R190). -/
def execAddImm (c : Cond) (sf : Bool) (rd rn : Reg) (rot : BitVec 4) (imm : BitVec 8) (s : State) : Result :=
  dataProcessing .add c sf (some rd) (some rn) (.imm rot imm) s

/-- ADD, operand 2 shifted by an immediate (42_arithmetic.md R190). -/
def execAddShiftImm (c : Cond) (sf : Bool) (rd rn rm : Reg) (sh : Shift) (amt : BitVec 5) (s : State) : Result :=
  dataProcessing .add c sf (some rd) (some rn) (.shiftImm rm sh amt) s

/-- ADD, operand 2 shifted by a register (42_arithmetic.md R190). -/
def execAddShiftReg (c : Cond) (sf : Bool) (rd rn rm : Reg) (sh : Shift) (rs : Reg) (s : State) : Result :=
  dataProcessing .add c sf (some rd) (some rn) (.shiftReg rm sh rs) s

/-- ADC, operand 2 immediate (42_arithmetic.md R191). -/
def execAdcImm (c : Cond) (sf : Bool) (rd rn : Reg) (rot : BitVec 4) (imm : BitVec 8) (s : State) : Result :=
  dataProcessing .adc c sf (some rd) (some rn) (.imm rot imm) s

/-- ADC, operand 2 shifted by an immediate (42_arithmetic.md R191). -/
def execAdcShiftImm (c : Cond) (sf : Bool) (rd rn rm : Reg) (sh : Shift) (amt : BitVec 5) (s : State) : Result :=
  dataProcessing .adc c sf (some rd) (some rn) (.shiftImm rm sh amt) s

/-- ADC, operand 2 shifted by a register (42_arithmetic.md R191). -/
def execAdcShiftReg (c : Cond) (sf : Bool) (rd rn rm : Reg) (sh : Shift) (rs : Reg) (s : State) : Result :=
  dataProcessing .adc c sf (some rd) (some rn) (.shiftReg rm sh rs) s

/-- SUB, operand 2 immediate (42_arithmetic.md R192). -/
def execSubImm (c : Cond) (sf : Bool) (rd rn : Reg) (rot : BitVec 4) (imm : BitVec 8) (s : State) : Result :=
  dataProcessing .sub c sf (some rd) (some rn) (.imm rot imm) s

/-- SUB, operand 2 shifted by an immediate (42_arithmetic.md R192). -/
def execSubShiftImm (c : Cond) (sf : Bool) (rd rn rm : Reg) (sh : Shift) (amt : BitVec 5) (s : State) : Result :=
  dataProcessing .sub c sf (some rd) (some rn) (.shiftImm rm sh amt) s

/-- SUB, operand 2 shifted by a register (42_arithmetic.md R192). -/
def execSubShiftReg (c : Cond) (sf : Bool) (rd rn rm : Reg) (sh : Shift) (rs : Reg) (s : State) : Result :=
  dataProcessing .sub c sf (some rd) (some rn) (.shiftReg rm sh rs) s

/-- SBC, operand 2 immediate (42_arithmetic.md R193). -/
def execSbcImm (c : Cond) (sf : Bool) (rd rn : Reg) (rot : BitVec 4) (imm : BitVec 8) (s : State) : Result :=
  dataProcessing .sbc c sf (some rd) (some rn) (.imm rot imm) s

/-- SBC, operand 2 shifted by an immediate (42_arithmetic.md R193). -/
def execSbcShiftImm (c : Cond) (sf : Bool) (rd rn rm : Reg) (sh : Shift) (amt : BitVec 5) (s : State) : Result :=
  dataProcessing .sbc c sf (some rd) (some rn) (.shiftImm rm sh amt) s

/-- SBC, operand 2 shifted by a register (42_arithmetic.md R193). -/
def execSbcShiftReg (c : Cond) (sf : Bool) (rd rn rm : Reg) (sh : Shift) (rs : Reg) (s : State) : Result :=
  dataProcessing .sbc c sf (some rd) (some rn) (.shiftReg rm sh rs) s

/-- RSB, operand 2 immediate (42_arithmetic.md R194). -/
def execRsbImm (c : Cond) (sf : Bool) (rd rn : Reg) (rot : BitVec 4) (imm : BitVec 8) (s : State) : Result :=
  dataProcessing .rsb c sf (some rd) (some rn) (.imm rot imm) s

/-- RSB, operand 2 shifted by an immediate (42_arithmetic.md R194). -/
def execRsbShiftImm (c : Cond) (sf : Bool) (rd rn rm : Reg) (sh : Shift) (amt : BitVec 5) (s : State) : Result :=
  dataProcessing .rsb c sf (some rd) (some rn) (.shiftImm rm sh amt) s

/-- RSB, operand 2 shifted by a register (42_arithmetic.md R194). -/
def execRsbShiftReg (c : Cond) (sf : Bool) (rd rn rm : Reg) (sh : Shift) (rs : Reg) (s : State) : Result :=
  dataProcessing .rsb c sf (some rd) (some rn) (.shiftReg rm sh rs) s

/-- RSC, operand 2 immediate (42_arithmetic.md R195). -/
def execRscImm (c : Cond) (sf : Bool) (rd rn : Reg) (rot : BitVec 4) (imm : BitVec 8) (s : State) : Result :=
  dataProcessing .rsc c sf (some rd) (some rn) (.imm rot imm) s

/-- RSC, operand 2 shifted by an immediate (42_arithmetic.md R195). -/
def execRscShiftImm (c : Cond) (sf : Bool) (rd rn rm : Reg) (sh : Shift) (amt : BitVec 5) (s : State) : Result :=
  dataProcessing .rsc c sf (some rd) (some rn) (.shiftImm rm sh amt) s

/-- RSC, operand 2 shifted by a register (42_arithmetic.md R195). -/
def execRscShiftReg (c : Cond) (sf : Bool) (rd rn rm : Reg) (sh : Shift) (rs : Reg) (s : State) : Result :=
  dataProcessing .rsc c sf (some rd) (some rn) (.shiftReg rm sh rs) s

end Sys2Proof.Machine
end

