-- ==== Sys2Proof/Machine/Block.lean ====
section
/-! DEFINITION. LDM and STM (47_load_store_multiple.md R300 to R314). -/

namespace Sys2Proof.Machine

/-- Whose registers a block transfer moves (47_load_store_multiple.md R306, R307). -/
inductive BlockBank where
  | current | userBank
deriving DecidableEq, Repr

/-- `bank[i]` (47_load_store_multiple.md R306). -/
def readBank (bank : BlockBank) (s : State) (n : Fin 15) : Word :=
  match bank with
  | .current => readGeneral s n
  | .userBank => readUserBank s n

/-- `bank[i] <- v` (47_load_store_multiple.md R306). -/
def writeBank (bank : BlockBank) (s : State) (n : Fin 15) (v : Word) : State :=
  match bank with
  | .current => writeGeneral s n v
  | .userBank => writeUserBank s n v

/-- The restrictions every block transfer has: a register listed, a base other than R15, aligned
(47_load_store_multiple.md R305). -/
def blockRefusal (rn : Reg) (list : BitVec 16) (s : State) : Option Refusal :=
  if list = 0#16 then some .emptyRegisterList
  else if rn = .pc then some .r15Operand
  else if !wordAligned (readReg s rn) then some .unalignedAccess
  else none

/-- The transfer runs past an end of the address space (47_load_store_multiple.md R301). -/
def blockWraps (start : Int) (n : Nat) : Bool := decide (start < 0) || decide (2 ^ 32 < start + 4 * n)

/-- The words of the listed registers from address `a` up, each with its register (47_load_store_multiple.md R306). -/
def loadList (s : State) (a : Nat) : List Reg → Access (List (Reg × Word))
  | [] => .done []
  | r :: rest =>
    match memRead s (BitVec.ofNat 32 a) .word (userMode s) with
    | .refused e => .refused e
    | .abort => .abort
    | .done v =>
      match loadList s (a + 4) rest with
      | .refused e => .refused e
      | .abort => .abort
      | .done vs => .done ((r, v) :: vs)

/-- Write loaded values into their registers; R15 is not written here (47_load_store_multiple.md R306). -/
def writeList (bank : BlockBank) (s : State) : List (Reg × Word) → State
  | [] => s
  | (.r n, v) :: rest => writeList bank (writeBank bank s n v) rest
  | (.pc, _) :: rest => writeList bank s rest

/-- Give every listed register but R15 an unspecified value: free words from the `k`-th up
(47_load_store_multiple.md R313; log 13). -/
def scrambleList (bank : BlockBank) (s : State) (k : Nat) : List Reg → State
  | [] => { s with draws := s.draws + k }
  | .r n :: rest => scrambleList bank (writeBank bank s n (freeWord s k)) (k + 1) rest
  | .pc :: rest => scrambleList bank s k rest

/-- The base after a data abort of a block transfer (47_load_store_multiple.md R313). -/
def abortedBase (wb : Bool) (old new : Word) (s : State) : Word :=
  match s.platform.abortModel with
  | .restored => old
  | .updated => if wb then new else old

/-- A data abort of an LDM (47_load_store_multiple.md R313, 60_exceptions.md R365). -/
def abortLoadBlock (bank : BlockBank) (wb : Bool) (n : Fin 15) (new : Word) (regs : List Reg) (s : State) : Result :=
  takeException .dataAbort
    (writeGeneral (scrambleList bank s 0 regs) n (abortedBase wb (readGeneral s n) new s))

/-- The word an STM stores for a register (47_load_store_multiple.md R306, R311). -/
def blockValue (bank : BlockBank) (s : State) : Reg → Option Word
  | .r n => some (readBank bank s n)
  | .pc => storedPc s

/-- How the stores of an STM end; an abort keeps the memory written before it (47_load_store_multiple.md R313). -/
inductive StoredBlock where
  | done (s : State)
  | abort (s : State)
  | refused (r : Refusal)
deriving DecidableEq, Repr

/-- Store the listed registers from address `a` up; `s` gives the registers, `t` the memory so far
(47_load_store_multiple.md R306). -/
def storeList (bank : BlockBank) (s t : State) (a : Nat) : List Reg → StoredBlock
  | [] => .done t
  | r :: rest =>
    match blockValue bank s r with
    | none => .refused .storeOfR15
    | some v =>
      match memWrite t (BitVec.ofNat 32 a) .word v (userMode s) with
      | .refused e => .refused e
      | .abort => .abort t
      | .done t' => storeList bank s t' (a + 4) rest

/-- A data abort of an STM (47_load_store_multiple.md R313, 60_exceptions.md R365); `t` holds the words already
stored. -/
def abortStoreBlock (wb : Bool) (n : Fin 15) (new : Word) (t : State) : Result :=
  takeException .dataAbort (writeGeneral t n (abortedBase wb (readGeneral t n) new t))

/-- LDM up to its R15: restrictions, loads, write-back, registers (47_load_store_multiple.md R305, R306). `special` is
the variant's own restriction; `finish` gets the loaded pairs and the state. -/
def loadBlock (c : Cond) (mode : BlockMode) (wb : Bool) (rn : Reg) (list : BitVec 16) (bank : BlockBank)
    (special : Option Refusal) (s : State) (finish : List (Reg × Word) → State → Result) : Result :=
  whenPassed c s <|
    match blockRefusal rn list s, rn with
    | some r, _ => .refused r
    | none, .pc => .refused .r15Operand
    | none, .r n =>
      let regs := listedRegs list
      if wb && regs.contains rn then .refused .writebackOverlap
      else
        match special with
        | some r => .refused r
        | none =>
          let start := blockStart mode (readGeneral s n).toNat regs.length
          if blockWraps start regs.length then .refused .addressWrap
          else
            let new := blockNewBase mode (readGeneral s n) regs.length
            match loadList s start.toNat regs with
            | .refused r => .refused r
            | .abort => abortLoadBlock bank wb n new regs s
            | .done vs => finish vs (writeList bank (if wb then writeGeneral s n new else s) vs)

/-- STM (47_load_store_multiple.md R305, R306); `finish` ends it after the stores and the write-back. -/
def storeBlock (c : Cond) (mode : BlockMode) (wb : Bool) (rn : Reg) (list : BitVec 16) (bank : BlockBank)
    (special : Option Refusal) (s : State) (finish : State → Result) : Result :=
  whenPassed c s <|
    match blockRefusal rn list s, rn with
    | some r, _ => .refused r
    | none, .pc => .refused .r15Operand
    | none, .r n =>
      let regs := listedRegs list
      if wb && regs.contains rn && regs.head? != some rn then .refused .writebackOverlap
      else if listsPc list && (storedPc s).isNone then .refused .storeOfR15
      else
        match special with
        | some r => .refused r
        | none =>
          let start := blockStart mode (readGeneral s n).toNat regs.length
          if blockWraps start regs.length then .refused .addressWrap
          else
            let new := blockNewBase mode (readGeneral s n) regs.length
            match storeList bank s s start.toNat regs with
            | .refused r => .refused r
            | .abort t => abortStoreBlock wb n new t
            | .done t => finish (if wb then writeGeneral t n new else t)

/-- The word loaded for R15, if it was listed (47_load_store_multiple.md R308). -/
def loadedPc (vs : List (Reg × Word)) : Option Word := (vs.find? fun p => p.1 == .pc).map Prod.snd

/-- The restriction of the User-bank forms (47_load_store_multiple.md R305). -/
def userBankRefusal (s : State) : Option Refusal :=
  match s.cpsr.m with
  | .exc _ => none
  | _ => some .userBankInUserMode

/-- The restriction of LDM (3) (47_load_store_multiple.md R305, R309). -/
def noSpsrRefusal (s : State) : Option Refusal :=
  match s.cpsr.m with
  | .exc _ => none
  | _ => some .noSpsr

/-- Set the hazard bit and end the instruction (47_load_store_multiple.md R310, R312, 70_reset_and_hazards.md R415). -/
def finishUserTransfer (s : State) : Result := advance { s with afterUserTransfer := true }

/-- LDM (1) (47_load_store_multiple.md R308). -/
def execLdm1 (c : Cond) (mode : BlockMode) (wb : Bool) (rn : Reg) (list : BitVec 16) (s : State) : Result :=
  loadBlock c mode wb rn list .current none s fun vs t =>
    match loadedPc vs with
    | none => advance t
    | some v => branchTo v t

/-- LDM (3), load multiple and restore the CPSR (47_load_store_multiple.md R309). -/
def execLdm3 (c : Cond) (mode : BlockMode) (wb : Bool) (rn : Reg) (list : BitVec 16) (s : State) : Result :=
  loadBlock c mode wb rn list .current (noSpsrRefusal s) s fun vs t =>
    match loadedPc vs with
    | none => advance t
    | some v => exceptionReturn v t

/-- LDM (2), load User-mode registers (47_load_store_multiple.md R310). -/
def execLdm2 (c : Cond) (mode : BlockMode) (rn : Reg) (list : BitVec 16) (s : State) : Result :=
  loadBlock c mode false rn list .userBank (userBankRefusal s) s fun _ t => finishUserTransfer t

/-- STM (1) (47_load_store_multiple.md R311). -/
def execStm1 (c : Cond) (mode : BlockMode) (wb : Bool) (rn : Reg) (list : BitVec 16) (s : State) : Result :=
  storeBlock c mode wb rn list .current none s advance

/-- STM (2), store User-mode registers (47_load_store_multiple.md R312). -/
def execStm2 (c : Cond) (mode : BlockMode) (rn : Reg) (list : BitVec 16) (s : State) : Result :=
  storeBlock c mode false rn list .userBank (userBankRefusal s) s finishUserTransfer

end Sys2Proof.Machine
end

