-- ==== Sys2Proof/Machine/Branch.lean ====
section
/-! DEFINITION. B, BL, BX (45_branch.md R250 to R255). -/

namespace Sys2Proof.Machine

/-- `pc + 8 + (sext_24(signed_immed_24) << 2)` modulo 2^32 (30_encoding.md R123, 45_branch.md R250). -/
def branchTarget (imm : BitVec 24) (s : State) : Word := s.pc + 8#32 + imm.signExtend 32 <<< 2

/-- B (45_branch.md R250). -/
def execB (c : Cond) (imm : BitVec 24) (s : State) : Result :=
  whenPassed c s <| .next { s with pc := branchTarget imm s }

/-- BL (45_branch.md R251): the link value is `pc + 4`, refused where it would pass the top of the address space. -/
def execBl (c : Cond) (imm : BitVec 24) (s : State) : Result :=
  whenPassed c s <|
    match pcPlus s 4 with
    | none => .refused .pcWrap
    | some link => .next { writeGeneral s 14 link with pc := branchTarget imm s }

/-- BX (45_branch.md R252). -/
def execBx (c : Cond) (rn : Reg) (s : State) : Result :=
  whenPassed c s <|
    let v := readReg s rn
    if v.getLsbD 0 then .refused .thumbState
    else branchTo v { s with cpsr := { s.cpsr with t := false } }

end Sys2Proof.Machine
end

