-- ==== Sys2Proof/Machine/Compare.lean ====
section
/-! DEFINITION. CMP, CMN, TST, TEQ (44_compare_logical.md R230 to R233, R238) over the skeleton of 40_conditions_operand2.md R157. -/

namespace Sys2Proof.Machine

/-- CMP, operand 2 immediate (44_compare_logical.md R230). -/
def execCmpImm (c : Cond) (rn : Reg) (rot : BitVec 4) (imm : BitVec 8) (s : State) : Result :=
  dataProcessing .cmp c true none (some rn) (.imm rot imm) s

/-- CMP, operand 2 shifted by an immediate (44_compare_logical.md R230). -/
def execCmpShiftImm (c : Cond) (rn rm : Reg) (sh : Shift) (amt : BitVec 5) (s : State) : Result :=
  dataProcessing .cmp c true none (some rn) (.shiftImm rm sh amt) s

/-- CMP, operand 2 shifted by a register (44_compare_logical.md R230). -/
def execCmpShiftReg (c : Cond) (rn rm : Reg) (sh : Shift) (rs : Reg) (s : State) : Result :=
  dataProcessing .cmp c true none (some rn) (.shiftReg rm sh rs) s

/-- CMN, operand 2 immediate (44_compare_logical.md R231). -/
def execCmnImm (c : Cond) (rn : Reg) (rot : BitVec 4) (imm : BitVec 8) (s : State) : Result :=
  dataProcessing .cmn c true none (some rn) (.imm rot imm) s

/-- CMN, operand 2 shifted by an immediate (44_compare_logical.md R231). -/
def execCmnShiftImm (c : Cond) (rn rm : Reg) (sh : Shift) (amt : BitVec 5) (s : State) : Result :=
  dataProcessing .cmn c true none (some rn) (.shiftImm rm sh amt) s

/-- CMN, operand 2 shifted by a register (44_compare_logical.md R231). -/
def execCmnShiftReg (c : Cond) (rn rm : Reg) (sh : Shift) (rs : Reg) (s : State) : Result :=
  dataProcessing .cmn c true none (some rn) (.shiftReg rm sh rs) s

/-- TST, operand 2 immediate (44_compare_logical.md R232). -/
def execTstImm (c : Cond) (rn : Reg) (rot : BitVec 4) (imm : BitVec 8) (s : State) : Result :=
  dataProcessing .tst c true none (some rn) (.imm rot imm) s

/-- TST, operand 2 shifted by an immediate (44_compare_logical.md R232). -/
def execTstShiftImm (c : Cond) (rn rm : Reg) (sh : Shift) (amt : BitVec 5) (s : State) : Result :=
  dataProcessing .tst c true none (some rn) (.shiftImm rm sh amt) s

/-- TST, operand 2 shifted by a register (44_compare_logical.md R232). -/
def execTstShiftReg (c : Cond) (rn rm : Reg) (sh : Shift) (rs : Reg) (s : State) : Result :=
  dataProcessing .tst c true none (some rn) (.shiftReg rm sh rs) s

/-- TEQ, operand 2 immediate (44_compare_logical.md R233). -/
def execTeqImm (c : Cond) (rn : Reg) (rot : BitVec 4) (imm : BitVec 8) (s : State) : Result :=
  dataProcessing .teq c true none (some rn) (.imm rot imm) s

/-- TEQ, operand 2 shifted by an immediate (44_compare_logical.md R233). -/
def execTeqShiftImm (c : Cond) (rn rm : Reg) (sh : Shift) (amt : BitVec 5) (s : State) : Result :=
  dataProcessing .teq c true none (some rn) (.shiftImm rm sh amt) s

/-- TEQ, operand 2 shifted by a register (44_compare_logical.md R233). -/
def execTeqShiftReg (c : Cond) (rn rm : Reg) (sh : Shift) (rs : Reg) (s : State) : Result :=
  dataProcessing .teq c true none (some rn) (.shiftReg rm sh rs) s

end Sys2Proof.Machine
end

