-- ==== Sys2Proof/Machine/Transfer.lean ====
section
/-! DEFINITION. The common operation of the single loads and stores (46_load_store_single.md R273, R274, R287). -/

namespace Sys2Proof.Machine

/-- A data abort of a single transfer: the base holds its old or its new value as `ABORT_MODEL` says, nothing else is
written, and the exception is taken (46_load_store_single.md R287, 60_exceptions.md R365). -/
def abortTransfer (ix : Indexing) (rn : Reg) (newBase : Word) (s : State) : Result :=
  match s.platform.abortModel with
  | .restored => takeException .dataAbort s
  | .updated => takeException .dataAbort (writeBack ix rn newBase s)

/-- What follows a load's access: write-back, then the destination, R15 being a jump (46_load_store_single.md R274,
R275). -/
def finishLoad (rd : Reg) (data : Word) (s : State) : Result :=
  match rd with
  | .r n => advance (writeGeneral s n data)
  | .pc => branchTo data s

/-- A single load (46_load_store_single.md R274): `pcRule` is what `Rd` = R15 gives (R273), `forceUser` the `T` forms. -/
def loadSingle (c : Cond) (sz : Size) (signed forceUser : Bool) (pcRule : Option Refusal)
    (ix : Indexing) (up : Bool) (rd rn : Reg) (o : Offset) (s : State) : Result :=
  whenPassed c s <|
    match transferRefusal pcRule ix rn rd o with
    | some r => .refused r
    | none =>
      let a := transferAddress ix up rn o s
      match memRead s a.1 sz (forceUser || userMode s) with
      | .refused r => .refused r
      | .abort => abortTransfer ix rn a.2 s
      | .done data => finishLoad rd (extendLoaded sz signed data) (writeBack ix rn a.2 s)

/-- The value a store writes; R15 only where `pcRule` let it through (46_load_store_single.md R274, R282). -/
def storeValue (rd : Reg) (s : State) : Option Word :=
  match rd with
  | .r n => some (readGeneral s n)
  | .pc => storedPc s

/-- A single store (46_load_store_single.md R274). -/
def storeSingle (c : Cond) (sz : Size) (forceUser : Bool) (pcRule : Option Refusal)
    (ix : Indexing) (up : Bool) (rd rn : Reg) (o : Offset) (s : State) : Result :=
  whenPassed c s <|
    match transferRefusal pcRule ix rn rd o with
    | some r => .refused r
    | none =>
      match storeValue rd s with
      | none => .refused .storeOfR15
      | some v =>
        let a := transferAddress ix up rn o s
        match memWrite s a.1 sz v (forceUser || userMode s) with
        | .refused r => .refused r
        | .abort => abortTransfer ix rn a.2 s
        | .done t => advance (writeBack ix rn a.2 t)

end Sys2Proof.Machine
end

