-- ==== Sys2Proof/Machine/Load.lean ====
section
/-! DEFINITION. The single loads (46_load_store_single.md R275 to R281). -/

namespace Sys2Proof.Machine

/-- LDR, offset or pre-indexed, immediate offset (46_load_store_single.md R275). -/
def execLdrImm (c : Cond) (up wb : Bool) (rd rn : Reg) (off : BitVec 12) (s : State) : Result :=
  loadSingle c .word false false none (.ofW wb) up rd rn (.imm (off.setWidth 32)) s

/-- LDR, post-indexed, immediate offset (46_load_store_single.md R275). -/
def execLdrImmPost (c : Cond) (up : Bool) (rd rn : Reg) (off : BitVec 12) (s : State) : Result :=
  loadSingle c .word false false none .postIndexed up rd rn (.imm (off.setWidth 32)) s

/-- LDR, offset or pre-indexed, register offset (46_load_store_single.md R275). -/
def execLdrReg (c : Cond) (up wb : Bool) (rd rn rm : Reg) (sh : Shift) (amt : BitVec 5) (s : State) : Result :=
  loadSingle c .word false false none (.ofW wb) up rd rn (.reg rm sh amt) s

/-- LDR, post-indexed, register offset (46_load_store_single.md R275). -/
def execLdrRegPost (c : Cond) (up : Bool) (rd rn rm : Reg) (sh : Shift) (amt : BitVec 5) (s : State) : Result :=
  loadSingle c .word false false none .postIndexed up rd rn (.reg rm sh amt) s

/-- LDRT, post-indexed, immediate offset (46_load_store_single.md R276). -/
def execLdrtImm (c : Cond) (up : Bool) (rd rn : Reg) (off : BitVec 12) (s : State) : Result :=
  loadSingle c .word false true (some .r15Operand) .postIndexed up rd rn (.imm (off.setWidth 32)) s

/-- LDRT, post-indexed, register offset (46_load_store_single.md R276). -/
def execLdrtReg (c : Cond) (up : Bool) (rd rn rm : Reg) (sh : Shift) (amt : BitVec 5) (s : State) : Result :=
  loadSingle c .word false true (some .r15Operand) .postIndexed up rd rn (.reg rm sh amt) s

/-- LDRB, offset or pre-indexed, immediate offset (46_load_store_single.md R277). -/
def execLdrbImm (c : Cond) (up wb : Bool) (rd rn : Reg) (off : BitVec 12) (s : State) : Result :=
  loadSingle c .byte false false (some .r15Operand) (.ofW wb) up rd rn (.imm (off.setWidth 32)) s

/-- LDRB, post-indexed, immediate offset (46_load_store_single.md R277). -/
def execLdrbImmPost (c : Cond) (up : Bool) (rd rn : Reg) (off : BitVec 12) (s : State) : Result :=
  loadSingle c .byte false false (some .r15Operand) .postIndexed up rd rn (.imm (off.setWidth 32)) s

/-- LDRB, offset or pre-indexed, register offset (46_load_store_single.md R277). -/
def execLdrbReg (c : Cond) (up wb : Bool) (rd rn rm : Reg) (sh : Shift) (amt : BitVec 5) (s : State) : Result :=
  loadSingle c .byte false false (some .r15Operand) (.ofW wb) up rd rn (.reg rm sh amt) s

/-- LDRB, post-indexed, register offset (46_load_store_single.md R277). -/
def execLdrbRegPost (c : Cond) (up : Bool) (rd rn rm : Reg) (sh : Shift) (amt : BitVec 5) (s : State) : Result :=
  loadSingle c .byte false false (some .r15Operand) .postIndexed up rd rn (.reg rm sh amt) s

/-- LDRBT, post-indexed, immediate offset (46_load_store_single.md R278). -/
def execLdrbtImm (c : Cond) (up : Bool) (rd rn : Reg) (off : BitVec 12) (s : State) : Result :=
  loadSingle c .byte false true (some .r15Operand) .postIndexed up rd rn (.imm (off.setWidth 32)) s

/-- LDRBT, post-indexed, register offset (46_load_store_single.md R278). -/
def execLdrbtReg (c : Cond) (up : Bool) (rd rn rm : Reg) (sh : Shift) (amt : BitVec 5) (s : State) : Result :=
  loadSingle c .byte false true (some .r15Operand) .postIndexed up rd rn (.reg rm sh amt) s

/-- LDRSB, offset or pre-indexed, immediate offset (46_load_store_single.md R279). -/
def execLdrsbImm (c : Cond) (up wb : Bool) (rd rn : Reg) (off : BitVec 8) (s : State) : Result :=
  loadSingle c .byte true false (some .r15Operand) (.ofW wb) up rd rn (.imm (off.setWidth 32)) s

/-- LDRSB, post-indexed, immediate offset (46_load_store_single.md R279). -/
def execLdrsbImmPost (c : Cond) (up : Bool) (rd rn : Reg) (off : BitVec 8) (s : State) : Result :=
  loadSingle c .byte true false (some .r15Operand) .postIndexed up rd rn (.imm (off.setWidth 32)) s

/-- LDRSB, offset or pre-indexed, register offset (46_load_store_single.md R279). -/
def execLdrsbReg (c : Cond) (up wb : Bool) (rd rn rm : Reg) (s : State) : Result :=
  loadSingle c .byte true false (some .r15Operand) (.ofW wb) up rd rn (.plainReg rm) s

/-- LDRSB, post-indexed, register offset (46_load_store_single.md R279). -/
def execLdrsbRegPost (c : Cond) (up : Bool) (rd rn rm : Reg) (s : State) : Result :=
  loadSingle c .byte true false (some .r15Operand) .postIndexed up rd rn (.plainReg rm) s

/-- LDRH, offset or pre-indexed, immediate offset (46_load_store_single.md R280). -/
def execLdrhImm (c : Cond) (up wb : Bool) (rd rn : Reg) (off : BitVec 8) (s : State) : Result :=
  loadSingle c .half false false (some .r15Operand) (.ofW wb) up rd rn (.imm (off.setWidth 32)) s

/-- LDRH, post-indexed, immediate offset (46_load_store_single.md R280). -/
def execLdrhImmPost (c : Cond) (up : Bool) (rd rn : Reg) (off : BitVec 8) (s : State) : Result :=
  loadSingle c .half false false (some .r15Operand) .postIndexed up rd rn (.imm (off.setWidth 32)) s

/-- LDRH, offset or pre-indexed, register offset (46_load_store_single.md R280). -/
def execLdrhReg (c : Cond) (up wb : Bool) (rd rn rm : Reg) (s : State) : Result :=
  loadSingle c .half false false (some .r15Operand) (.ofW wb) up rd rn (.plainReg rm) s

/-- LDRH, post-indexed, register offset (46_load_store_single.md R280). -/
def execLdrhRegPost (c : Cond) (up : Bool) (rd rn rm : Reg) (s : State) : Result :=
  loadSingle c .half false false (some .r15Operand) .postIndexed up rd rn (.plainReg rm) s

/-- LDRSH, offset or pre-indexed, immediate offset (46_load_store_single.md R281). -/
def execLdrshImm (c : Cond) (up wb : Bool) (rd rn : Reg) (off : BitVec 8) (s : State) : Result :=
  loadSingle c .half true false (some .r15Operand) (.ofW wb) up rd rn (.imm (off.setWidth 32)) s

/-- LDRSH, post-indexed, immediate offset (46_load_store_single.md R281). -/
def execLdrshImmPost (c : Cond) (up : Bool) (rd rn : Reg) (off : BitVec 8) (s : State) : Result :=
  loadSingle c .half true false (some .r15Operand) .postIndexed up rd rn (.imm (off.setWidth 32)) s

/-- LDRSH, offset or pre-indexed, register offset (46_load_store_single.md R281). -/
def execLdrshReg (c : Cond) (up wb : Bool) (rd rn rm : Reg) (s : State) : Result :=
  loadSingle c .half true false (some .r15Operand) (.ofW wb) up rd rn (.plainReg rm) s

/-- LDRSH, post-indexed, register offset (46_load_store_single.md R281). -/
def execLdrshRegPost (c : Cond) (up : Bool) (rd rn rm : Reg) (s : State) : Result :=
  loadSingle c .half true false (some .r15Operand) .postIndexed up rd rn (.plainReg rm) s

end Sys2Proof.Machine
end

