-- ==== Sys2Proof/Machine/Logical.lean ====
section
/-! DEFINITION. AND, EOR, ORR, BIC (44_compare_logical.md R234 to R237) over the skeleton of 40_conditions_operand2.md R157. -/

namespace Sys2Proof.Machine

/-- AND, operand 2 immediate (44_compare_logical.md R234). -/
def execAndImm (c : Cond) (sf : Bool) (rd rn : Reg) (rot : BitVec 4) (imm : BitVec 8) (s : State) : Result :=
  dataProcessing .and c sf (some rd) (some rn) (.imm rot imm) s

/-- AND, operand 2 shifted by an immediate (44_compare_logical.md R234). -/
def execAndShiftImm (c : Cond) (sf : Bool) (rd rn rm : Reg) (sh : Shift) (amt : BitVec 5) (s : State) : Result :=
  dataProcessing .and c sf (some rd) (some rn) (.shiftImm rm sh amt) s

/-- AND, operand 2 shifted by a register (44_compare_logical.md R234). -/
def execAndShiftReg (c : Cond) (sf : Bool) (rd rn rm : Reg) (sh : Shift) (rs : Reg) (s : State) : Result :=
  dataProcessing .and c sf (some rd) (some rn) (.shiftReg rm sh rs) s

/-- EOR, operand 2 immediate (44_compare_logical.md R235). -/
def execEorImm (c : Cond) (sf : Bool) (rd rn : Reg) (rot : BitVec 4) (imm : BitVec 8) (s : State) : Result :=
  dataProcessing .eor c sf (some rd) (some rn) (.imm rot imm) s

/-- EOR, operand 2 shifted by an immediate (44_compare_logical.md R235). -/
def execEorShiftImm (c : Cond) (sf : Bool) (rd rn rm : Reg) (sh : Shift) (amt : BitVec 5) (s : State) : Result :=
  dataProcessing .eor c sf (some rd) (some rn) (.shiftImm rm sh amt) s

/-- EOR, operand 2 shifted by a register (44_compare_logical.md R235). -/
def execEorShiftReg (c : Cond) (sf : Bool) (rd rn rm : Reg) (sh : Shift) (rs : Reg) (s : State) : Result :=
  dataProcessing .eor c sf (some rd) (some rn) (.shiftReg rm sh rs) s

/-- ORR, operand 2 immediate (44_compare_logical.md R236). -/
def execOrrImm (c : Cond) (sf : Bool) (rd rn : Reg) (rot : BitVec 4) (imm : BitVec 8) (s : State) : Result :=
  dataProcessing .orr c sf (some rd) (some rn) (.imm rot imm) s

/-- ORR, operand 2 shifted by an immediate (44_compare_logical.md R236). -/
def execOrrShiftImm (c : Cond) (sf : Bool) (rd rn rm : Reg) (sh : Shift) (amt : BitVec 5) (s : State) : Result :=
  dataProcessing .orr c sf (some rd) (some rn) (.shiftImm rm sh amt) s

/-- ORR, operand 2 shifted by a register (44_compare_logical.md R236). -/
def execOrrShiftReg (c : Cond) (sf : Bool) (rd rn rm : Reg) (sh : Shift) (rs : Reg) (s : State) : Result :=
  dataProcessing .orr c sf (some rd) (some rn) (.shiftReg rm sh rs) s

/-- BIC, operand 2 immediate (44_compare_logical.md R237). -/
def execBicImm (c : Cond) (sf : Bool) (rd rn : Reg) (rot : BitVec 4) (imm : BitVec 8) (s : State) : Result :=
  dataProcessing .bic c sf (some rd) (some rn) (.imm rot imm) s

/-- BIC, operand 2 shifted by an immediate (44_compare_logical.md R237). -/
def execBicShiftImm (c : Cond) (sf : Bool) (rd rn rm : Reg) (sh : Shift) (amt : BitVec 5) (s : State) : Result :=
  dataProcessing .bic c sf (some rd) (some rn) (.shiftImm rm sh amt) s

/-- BIC, operand 2 shifted by a register (44_compare_logical.md R237). -/
def execBicShiftReg (c : Cond) (sf : Bool) (rd rn rm : Reg) (sh : Shift) (rs : Reg) (s : State) : Result :=
  dataProcessing .bic c sf (some rd) (some rn) (.shiftReg rm sh rs) s

end Sys2Proof.Machine
end

