-- ==== Sys2Proof/Machine/Move.lean ====
section
/-! DEFINITION. MOV and MVN (41_move_psr.md R170, R171) over the skeleton of 40_conditions_operand2.md R157. -/

namespace Sys2Proof.Machine

/-- MOV, operand 2 immediate (41_move_psr.md R170). -/
def execMovImm (c : Cond) (sf : Bool) (rd : Reg) (rot : BitVec 4) (imm : BitVec 8) (s : State) : Result :=
  dataProcessing .mov c sf (some rd) none (.imm rot imm) s

/-- MOV, operand 2 shifted by an immediate (41_move_psr.md R170). -/
def execMovShiftImm (c : Cond) (sf : Bool) (rd rm : Reg) (sh : Shift) (amt : BitVec 5) (s : State) : Result :=
  dataProcessing .mov c sf (some rd) none (.shiftImm rm sh amt) s

/-- MOV, operand 2 shifted by a register (41_move_psr.md R170). -/
def execMovShiftReg (c : Cond) (sf : Bool) (rd rm : Reg) (sh : Shift) (rs : Reg) (s : State) : Result :=
  dataProcessing .mov c sf (some rd) none (.shiftReg rm sh rs) s

/-- MVN, operand 2 immediate (41_move_psr.md R171). -/
def execMvnImm (c : Cond) (sf : Bool) (rd : Reg) (rot : BitVec 4) (imm : BitVec 8) (s : State) : Result :=
  dataProcessing .mvn c sf (some rd) none (.imm rot imm) s

/-- MVN, operand 2 shifted by an immediate (41_move_psr.md R171). -/
def execMvnShiftImm (c : Cond) (sf : Bool) (rd rm : Reg) (sh : Shift) (amt : BitVec 5) (s : State) : Result :=
  dataProcessing .mvn c sf (some rd) none (.shiftImm rm sh amt) s

/-- MVN, operand 2 shifted by a register (41_move_psr.md R171). -/
def execMvnShiftReg (c : Cond) (sf : Bool) (rd rm : Reg) (sh : Shift) (rs : Reg) (s : State) : Result :=
  dataProcessing .mvn c sf (some rd) none (.shiftReg rm sh rs) s

end Sys2Proof.Machine
end

