-- ==== Sys2Proof/Machine/Multiply.lean ====
section
/-! DEFINITION. The multiplies (43_multiply.md R210 to R218). -/

namespace Sys2Proof.Machine

/-- End a 32-bit multiply: the result and, with `S`, the flags (43_multiply.md R210, R211, R217). -/
def finishMul (sf : Bool) (d : Fin 15) (result : Word) (s : State) : Result :=
  advance (writeGeneral (if sf then setMulFlags result s else s) d result)

/-- End a long multiply: `RdHi:RdLo` and, with `S`, the flags (43_multiply.md R212 to R215, R217). -/
def finishMulLong (sf : Bool) (dLo dHi : Fin 15) (result : BitVec 64) (s : State) : Result :=
  let t := if sf then setMulLongFlags result s else s
  advance (writeGeneral (writeGeneral t dHi (result.extractLsb' 32 32)) dLo (result.extractLsb' 0 32))

/-- `RdHi * 2^32 + RdLo` (43_multiply.md R218). -/
def accumulator (dLo dHi : Fin 15) (s : State) : BitVec 64 := readGeneral s dHi ++ readGeneral s dLo

/-- The 64-bit product of two unsigned words (43_multiply.md R218). -/
def unsignedProduct (a b : Word) : BitVec 64 := BitVec.ofNat 64 (a.toNat * b.toNat)

/-- The 64-bit product of two signed words (43_multiply.md R218). -/
def signedProduct (a b : Word) : BitVec 64 := BitVec.ofInt 64 (a.toInt * b.toInt)

/-- The restrictions of the long multiplies, then `body` on the register numbers (43_multiply.md R216). -/
def mulLong (c : Cond) (rdLo rdHi rm rs : Reg) (s : State)
    (body : Fin 15 → Fin 15 → Word → Word → Result) : Result :=
  whenPassed c s <|
    match rdLo, rdHi, rm, rs with
    | .r dLo, .r dHi, .r m, .r k =>
      if dHi = dLo ∨ dHi = m ∨ dLo = m then .refused .mulLongOverlap
      else body dLo dHi (readGeneral s m) (readGeneral s k)
    | _, _, _, _ => .refused .r15Operand

/-- MUL (43_multiply.md R210). -/
def execMul (c : Cond) (sf : Bool) (rd rm rs : Reg) (s : State) : Result :=
  whenPassed c s <|
    match rd, rm, rs with
    | .r d, .r m, .r k =>
      if d = m then .refused .mulRdEqualsRm
      else finishMul sf d (readGeneral s m * readGeneral s k) s
    | _, _, _ => .refused .r15Operand

/-- MLA (43_multiply.md R211). -/
def execMla (c : Cond) (sf : Bool) (rd rm rs rn : Reg) (s : State) : Result :=
  whenPassed c s <|
    match rd, rm, rs, rn with
    | .r d, .r m, .r k, .r n =>
      if d = m then .refused .mulRdEqualsRm
      else finishMul sf d (readGeneral s m * readGeneral s k + readGeneral s n) s
    | _, _, _, _ => .refused .r15Operand

/-- UMULL (43_multiply.md R212). -/
def execUmull (c : Cond) (sf : Bool) (rdLo rdHi rm rs : Reg) (s : State) : Result :=
  mulLong c rdLo rdHi rm rs s fun dLo dHi a b => finishMulLong sf dLo dHi (unsignedProduct a b) s

/-- UMLAL (43_multiply.md R213). -/
def execUmlal (c : Cond) (sf : Bool) (rdLo rdHi rm rs : Reg) (s : State) : Result :=
  mulLong c rdLo rdHi rm rs s fun dLo dHi a b =>
    finishMulLong sf dLo dHi (unsignedProduct a b + accumulator dLo dHi s) s

/-- SMULL (43_multiply.md R214). -/
def execSmull (c : Cond) (sf : Bool) (rdLo rdHi rm rs : Reg) (s : State) : Result :=
  mulLong c rdLo rdHi rm rs s fun dLo dHi a b => finishMulLong sf dLo dHi (signedProduct a b) s

/-- SMLAL (43_multiply.md R215). -/
def execSmlal (c : Cond) (sf : Bool) (rdLo rdHi rm rs : Reg) (s : State) : Result :=
  mulLong c rdLo rdHi rm rs s fun dLo dHi a b =>
    finishMulLong sf dLo dHi (signedProduct a b + accumulator dLo dHi s) s

end Sys2Proof.Machine
end

