-- ==== Sys2Proof/Machine/Status.lean ====
section
/-! DEFINITION. MRS and MSR (41_move_psr.md R168, R169, R172 to R177). -/

namespace Sys2Proof.Machine

/-- The bits a field mask selects: c, x, s, f from its bit 0 up (41_move_psr.md R168, R169). -/
def byteMask (mask : BitVec 4) : Word :=
  (if mask.getLsbD 0 then 0x000000FF#32 else 0#32) ||| (if mask.getLsbD 1 then 0x0000FF00#32 else 0#32) |||
    (if mask.getLsbD 2 then 0x00FF0000#32 else 0#32) ||| (if mask.getLsbD 3 then 0xFF000000#32 else 0#32)

/-- `old` with the bits of `sel` taken from `operand` (41_move_psr.md R168). -/
def mergeBits (sel old operand : Word) : Word := (old &&& ~~~sel) ||| (operand &&& sel)

/-- The bits of the CPSR an MSR may change: User mode, only the flags byte (41_move_psr.md R168). -/
def cpsrMask (mask : BitVec 4) (s : State) : Word :=
  if userMode s then byteMask mask &&& 0xFF000000#32 else byteMask mask

/-- `WritePSR(CPSR, operand, field_mask)` (41_move_psr.md R168). -/
def writeCpsr (mask : BitVec 4) (operand : Word) (s : State) : Result :=
  let p := Psr.ofWord (mergeBits (cpsrMask mask s) s.cpsr.save.toWord operand)
  if p.t != s.cpsr.t then .refused .msrAltersT
  else
    match p.restore with
    | none => .refused .illegalMode
    | some q => advance { s with cpsr := q }

/-- `WritePSR(SPSR, operand, field_mask)` (41_move_psr.md R168). -/
def writeSpsr (mask : BitVec 4) (operand : Word) (s : State) : Result :=
  match s.cpsr.m with
  | .exc e =>
    let new := mergeBits (byteMask mask) (s.spsr.get e).toWord operand
    advance { s with spsr := s.spsr.set e (Psr.ofWord new) }
  | _ => .refused .noSpsr

/-- MRS Rd, CPSR (41_move_psr.md R172). -/
def execMrsCpsr (c : Cond) (rd : Reg) (s : State) : Result :=
  whenPassed c s <|
    match rd with
    | .pc => .refused .r15Operand
    | .r n => advance (writeGeneral s n s.cpsr.save.toWord)

/-- MRS Rd, SPSR (41_move_psr.md R173). -/
def execMrsSpsr (c : Cond) (rd : Reg) (s : State) : Result :=
  whenPassed c s <|
    match rd with
    | .pc => .refused .r15Operand
    | .r n =>
      match s.cpsr.m with
      | .exc e => advance (writeGeneral s n (s.spsr.get e).toWord)
      | _ => .refused .noSpsr

/-- MSR CPSR, Rm (41_move_psr.md R174). -/
def execMsrCpsrReg (c : Cond) (mask : BitVec 4) (rm : Reg) (s : State) : Result :=
  whenPassed c s <|
    match rm with
    | .pc => .refused .r15Operand
    | .r n => writeCpsr mask (readGeneral s n) s

/-- MSR SPSR, Rm (41_move_psr.md R175). -/
def execMsrSpsrReg (c : Cond) (mask : BitVec 4) (rm : Reg) (s : State) : Result :=
  whenPassed c s <|
    match rm with
    | .pc => .refused .r15Operand
    | .r n => writeSpsr mask (readGeneral s n) s

/-- MSR CPSR, #immediate (41_move_psr.md R176). -/
def execMsrCpsrImm (c : Cond) (mask : BitVec 4) (rot : BitVec 4) (imm : BitVec 8) (s : State) : Result :=
  whenPassed c s <| writeCpsr mask (immediate32 rot imm) s

/-- MSR SPSR, #immediate (41_move_psr.md R177). -/
def execMsrSpsrImm (c : Cond) (mask : BitVec 4) (rot : BitVec 4) (imm : BitVec 8) (s : State) : Result :=
  whenPassed c s <| writeSpsr mask (immediate32 rot imm) s

end Sys2Proof.Machine
end

