-- ==== Sys2Proof/Machine/Store.lean ====
section
/-! DEFINITION. The single stores (46_load_store_single.md R282 to R286). -/

namespace Sys2Proof.Machine

/-- STR, offset or pre-indexed, immediate offset (46_load_store_single.md R282). -/
def execStrImm (c : Cond) (up wb : Bool) (rd rn : Reg) (off : BitVec 12) (s : State) : Result :=
  storeSingle c .word false none (.ofW wb) up rd rn (.imm (off.setWidth 32)) s

/-- STR, post-indexed, immediate offset (46_load_store_single.md R282). -/
def execStrImmPost (c : Cond) (up : Bool) (rd rn : Reg) (off : BitVec 12) (s : State) : Result :=
  storeSingle c .word false none .postIndexed up rd rn (.imm (off.setWidth 32)) s

/-- STR, offset or pre-indexed, register offset (46_load_store_single.md R282). -/
def execStrReg (c : Cond) (up wb : Bool) (rd rn rm : Reg) (sh : Shift) (amt : BitVec 5) (s : State) : Result :=
  storeSingle c .word false none (.ofW wb) up rd rn (.reg rm sh amt) s

/-- STR, post-indexed, register offset (46_load_store_single.md R282). -/
def execStrRegPost (c : Cond) (up : Bool) (rd rn rm : Reg) (sh : Shift) (amt : BitVec 5) (s : State) : Result :=
  storeSingle c .word false none .postIndexed up rd rn (.reg rm sh amt) s

/-- STRT, post-indexed, immediate offset (46_load_store_single.md R283). -/
def execStrtImm (c : Cond) (up : Bool) (rd rn : Reg) (off : BitVec 12) (s : State) : Result :=
  storeSingle c .word true (some .r15Operand) .postIndexed up rd rn (.imm (off.setWidth 32)) s

/-- STRT, post-indexed, register offset (46_load_store_single.md R283). -/
def execStrtReg (c : Cond) (up : Bool) (rd rn rm : Reg) (sh : Shift) (amt : BitVec 5) (s : State) : Result :=
  storeSingle c .word true (some .r15Operand) .postIndexed up rd rn (.reg rm sh amt) s

/-- STRB, offset or pre-indexed, immediate offset (46_load_store_single.md R284). -/
def execStrbImm (c : Cond) (up wb : Bool) (rd rn : Reg) (off : BitVec 12) (s : State) : Result :=
  storeSingle c .byte false (some .r15Operand) (.ofW wb) up rd rn (.imm (off.setWidth 32)) s

/-- STRB, post-indexed, immediate offset (46_load_store_single.md R284). -/
def execStrbImmPost (c : Cond) (up : Bool) (rd rn : Reg) (off : BitVec 12) (s : State) : Result :=
  storeSingle c .byte false (some .r15Operand) .postIndexed up rd rn (.imm (off.setWidth 32)) s

/-- STRB, offset or pre-indexed, register offset (46_load_store_single.md R284). -/
def execStrbReg (c : Cond) (up wb : Bool) (rd rn rm : Reg) (sh : Shift) (amt : BitVec 5) (s : State) : Result :=
  storeSingle c .byte false (some .r15Operand) (.ofW wb) up rd rn (.reg rm sh amt) s

/-- STRB, post-indexed, register offset (46_load_store_single.md R284). -/
def execStrbRegPost (c : Cond) (up : Bool) (rd rn rm : Reg) (sh : Shift) (amt : BitVec 5) (s : State) : Result :=
  storeSingle c .byte false (some .r15Operand) .postIndexed up rd rn (.reg rm sh amt) s

/-- STRBT, post-indexed, immediate offset (46_load_store_single.md R285). -/
def execStrbtImm (c : Cond) (up : Bool) (rd rn : Reg) (off : BitVec 12) (s : State) : Result :=
  storeSingle c .byte true (some .r15Operand) .postIndexed up rd rn (.imm (off.setWidth 32)) s

/-- STRBT, post-indexed, register offset (46_load_store_single.md R285). -/
def execStrbtReg (c : Cond) (up : Bool) (rd rn rm : Reg) (sh : Shift) (amt : BitVec 5) (s : State) : Result :=
  storeSingle c .byte true (some .r15Operand) .postIndexed up rd rn (.reg rm sh amt) s

/-- STRH, offset or pre-indexed, immediate offset (46_load_store_single.md R286). -/
def execStrhImm (c : Cond) (up wb : Bool) (rd rn : Reg) (off : BitVec 8) (s : State) : Result :=
  storeSingle c .half false (some .r15Operand) (.ofW wb) up rd rn (.imm (off.setWidth 32)) s

/-- STRH, post-indexed, immediate offset (46_load_store_single.md R286). -/
def execStrhImmPost (c : Cond) (up : Bool) (rd rn : Reg) (off : BitVec 8) (s : State) : Result :=
  storeSingle c .half false (some .r15Operand) .postIndexed up rd rn (.imm (off.setWidth 32)) s

/-- STRH, offset or pre-indexed, register offset (46_load_store_single.md R286). -/
def execStrhReg (c : Cond) (up wb : Bool) (rd rn rm : Reg) (s : State) : Result :=
  storeSingle c .half false (some .r15Operand) (.ofW wb) up rd rn (.plainReg rm) s

/-- STRH, post-indexed, register offset (46_load_store_single.md R286). -/
def execStrhRegPost (c : Cond) (up : Bool) (rd rn rm : Reg) (s : State) : Result :=
  storeSingle c .half false (some .r15Operand) .postIndexed up rd rn (.plainReg rm) s

end Sys2Proof.Machine
end

