-- ==== Sys2Proof/Machine/Swap.lean ====
section
/-! DEFINITION. SWP and SWPB (48_swap.md R330 to R332). -/

namespace Sys2Proof.Machine

/-- The common operation of the swaps: the restrictions, then a read and a write at one address in one step, and only
then `Rd` (48_swap.md R330, R331, R332). An aborted access leaves `Rd`, and an aborted read leaves memory (R330). -/
def swapMemory (c : Cond) (sz : Size) (rd rm rn : Reg) (s : State) : Result :=
  whenPassed c s <|
    match rd, rm, rn with
    | .r d, .r m, .r n =>
      if n = d ∨ n = m then .refused .swapBaseOverlap
      else
        match memRead s (readGeneral s n) sz (userMode s) with
        | .refused r => .refused r
        | .abort => takeException .dataAbort s
        | .done old =>
          match memWrite s (readGeneral s n) sz (readGeneral s m) (userMode s) with
          | .refused r => .refused r
          | .abort => takeException .dataAbort s
          | .done t => advance (writeGeneral t d old)
    | _, _, _ => .refused .r15Operand

/-- SWP (48_swap.md R330). -/
def execSwp (c : Cond) (rd rm rn : Reg) (s : State) : Result := swapMemory c .word rd rm rn s

/-- SWPB (48_swap.md R331): the byte read is zero-extended. -/
def execSwpb (c : Cond) (rd rm rn : Reg) (s : State) : Result := swapMemory c .byte rd rm rn s

end Sys2Proof.Machine
end

