-- ==== Sys2Proof/Machine/Trap.lean ====
section
/-! DEFINITION. The instructions whose effect is an exception: SWI (49_swi.md R340) and the words of the undefined
spaces (30_encoding.md R127, R128; 60_exceptions.md R356). -/

namespace Sys2Proof.Machine

/-- SWI (49_swi.md R340): the Software Interrupt exception; the processor ignores the 24-bit value. -/
def execSwi (c : Cond) (_imm : BitVec 24) (s : State) : Result :=
  whenPassed c s <| takeException .softwareInterrupt s

/-- A word of the architecturally undefined space (30_encoding.md R127). -/
def execUndefinedSpace (c : Cond) (_hi : BitVec 20) (_lo : BitVec 4) (s : State) : Result :=
  whenPassed c s <| takeException .undefined s

/-- A word of the coprocessor load and store space: no coprocessor accepts it (30_encoding.md R128). -/
def execCoprocTransfer (c : Cond) (_rest : BitVec 25) (s : State) : Result :=
  whenPassed c s <| takeException .undefined s

/-- A word of the coprocessor operation and register-transfer space: no coprocessor accepts it (30_encoding.md R128). -/
def execCoprocOperation (c : Cond) (_rest : BitVec 24) (s : State) : Result :=
  whenPassed c s <| takeException .undefined s

end Sys2Proof.Machine
end

