-- ==== Sys2Proof/Machine/Dispatch.lean ====
section
/-! DEFINITION. The meaning of each instruction: one arm per row of spec/opcode_table.json. -/

namespace Sys2Proof.Machine

/-- Execute one instruction (00_scope.md R13, 30_encoding.md R101 steps 4 and 5). -/
def exec (i : Instr) (s : State) : Host.Outcome State Fault Refusal :=
  match i with
  | .movImm c sf rd rot imm => Sys2Proof.Machine.execMovImm c sf rd rot imm s
  | .movShiftImm c sf rd rm sh amt => Sys2Proof.Machine.execMovShiftImm c sf rd rm sh amt s
  | .movShiftReg c sf rd rm sh rs => Sys2Proof.Machine.execMovShiftReg c sf rd rm sh rs s
  | .mvnImm c sf rd rot imm => Sys2Proof.Machine.execMvnImm c sf rd rot imm s
  | .mvnShiftImm c sf rd rm sh amt => Sys2Proof.Machine.execMvnShiftImm c sf rd rm sh amt s
  | .mvnShiftReg c sf rd rm sh rs => Sys2Proof.Machine.execMvnShiftReg c sf rd rm sh rs s
  | .addImm c sf rd rn rot imm => Sys2Proof.Machine.execAddImm c sf rd rn rot imm s
  | .addShiftImm c sf rd rn rm sh amt => Sys2Proof.Machine.execAddShiftImm c sf rd rn rm sh amt s
  | .addShiftReg c sf rd rn rm sh rs => Sys2Proof.Machine.execAddShiftReg c sf rd rn rm sh rs s
  | .adcImm c sf rd rn rot imm => Sys2Proof.Machine.execAdcImm c sf rd rn rot imm s
  | .adcShiftImm c sf rd rn rm sh amt => Sys2Proof.Machine.execAdcShiftImm c sf rd rn rm sh amt s
  | .adcShiftReg c sf rd rn rm sh rs => Sys2Proof.Machine.execAdcShiftReg c sf rd rn rm sh rs s
  | .subImm c sf rd rn rot imm => Sys2Proof.Machine.execSubImm c sf rd rn rot imm s
  | .subShiftImm c sf rd rn rm sh amt => Sys2Proof.Machine.execSubShiftImm c sf rd rn rm sh amt s
  | .subShiftReg c sf rd rn rm sh rs => Sys2Proof.Machine.execSubShiftReg c sf rd rn rm sh rs s
  | .sbcImm c sf rd rn rot imm => Sys2Proof.Machine.execSbcImm c sf rd rn rot imm s
  | .sbcShiftImm c sf rd rn rm sh amt => Sys2Proof.Machine.execSbcShiftImm c sf rd rn rm sh amt s
  | .sbcShiftReg c sf rd rn rm sh rs => Sys2Proof.Machine.execSbcShiftReg c sf rd rn rm sh rs s
  | .rsbImm c sf rd rn rot imm => Sys2Proof.Machine.execRsbImm c sf rd rn rot imm s
  | .rsbShiftImm c sf rd rn rm sh amt => Sys2Proof.Machine.execRsbShiftImm c sf rd rn rm sh amt s
  | .rsbShiftReg c sf rd rn rm sh rs => Sys2Proof.Machine.execRsbShiftReg c sf rd rn rm sh rs s
  | .rscImm c sf rd rn rot imm => Sys2Proof.Machine.execRscImm c sf rd rn rot imm s
  | .rscShiftImm c sf rd rn rm sh amt => Sys2Proof.Machine.execRscShiftImm c sf rd rn rm sh amt s
  | .rscShiftReg c sf rd rn rm sh rs => Sys2Proof.Machine.execRscShiftReg c sf rd rn rm sh rs s
  | .cmpImm c rn rot imm => Sys2Proof.Machine.execCmpImm c rn rot imm s
  | .cmpShiftImm c rn rm sh amt => Sys2Proof.Machine.execCmpShiftImm c rn rm sh amt s
  | .cmpShiftReg c rn rm sh rs => Sys2Proof.Machine.execCmpShiftReg c rn rm sh rs s
  | .cmnImm c rn rot imm => Sys2Proof.Machine.execCmnImm c rn rot imm s
  | .cmnShiftImm c rn rm sh amt => Sys2Proof.Machine.execCmnShiftImm c rn rm sh amt s
  | .cmnShiftReg c rn rm sh rs => Sys2Proof.Machine.execCmnShiftReg c rn rm sh rs s
  | .tstImm c rn rot imm => Sys2Proof.Machine.execTstImm c rn rot imm s
  | .tstShiftImm c rn rm sh amt => Sys2Proof.Machine.execTstShiftImm c rn rm sh amt s
  | .tstShiftReg c rn rm sh rs => Sys2Proof.Machine.execTstShiftReg c rn rm sh rs s
  | .teqImm c rn rot imm => Sys2Proof.Machine.execTeqImm c rn rot imm s
  | .teqShiftImm c rn rm sh amt => Sys2Proof.Machine.execTeqShiftImm c rn rm sh amt s
  | .teqShiftReg c rn rm sh rs => Sys2Proof.Machine.execTeqShiftReg c rn rm sh rs s
  | .andImm c sf rd rn rot imm => Sys2Proof.Machine.execAndImm c sf rd rn rot imm s
  | .andShiftImm c sf rd rn rm sh amt => Sys2Proof.Machine.execAndShiftImm c sf rd rn rm sh amt s
  | .andShiftReg c sf rd rn rm sh rs => Sys2Proof.Machine.execAndShiftReg c sf rd rn rm sh rs s
  | .eorImm c sf rd rn rot imm => Sys2Proof.Machine.execEorImm c sf rd rn rot imm s
  | .eorShiftImm c sf rd rn rm sh amt => Sys2Proof.Machine.execEorShiftImm c sf rd rn rm sh amt s
  | .eorShiftReg c sf rd rn rm sh rs => Sys2Proof.Machine.execEorShiftReg c sf rd rn rm sh rs s
  | .orrImm c sf rd rn rot imm => Sys2Proof.Machine.execOrrImm c sf rd rn rot imm s
  | .orrShiftImm c sf rd rn rm sh amt => Sys2Proof.Machine.execOrrShiftImm c sf rd rn rm sh amt s
  | .orrShiftReg c sf rd rn rm sh rs => Sys2Proof.Machine.execOrrShiftReg c sf rd rn rm sh rs s
  | .bicImm c sf rd rn rot imm => Sys2Proof.Machine.execBicImm c sf rd rn rot imm s
  | .bicShiftImm c sf rd rn rm sh amt => Sys2Proof.Machine.execBicShiftImm c sf rd rn rm sh amt s
  | .bicShiftReg c sf rd rn rm sh rs => Sys2Proof.Machine.execBicShiftReg c sf rd rn rm sh rs s
  | .mrsCpsr c rd => Sys2Proof.Machine.execMrsCpsr c rd s
  | .mrsSpsr c rd => Sys2Proof.Machine.execMrsSpsr c rd s
  | .msrCpsrReg c mask rm => Sys2Proof.Machine.execMsrCpsrReg c mask rm s
  | .msrSpsrReg c mask rm => Sys2Proof.Machine.execMsrSpsrReg c mask rm s
  | .msrCpsrImm c mask rot imm => Sys2Proof.Machine.execMsrCpsrImm c mask rot imm s
  | .msrSpsrImm c mask rot imm => Sys2Proof.Machine.execMsrSpsrImm c mask rot imm s
  | .mul c sf rd rm rs => Sys2Proof.Machine.execMul c sf rd rm rs s
  | .mla c sf rd rm rs rn => Sys2Proof.Machine.execMla c sf rd rm rs rn s
  | .umull c sf rdLo rdHi rm rs => Sys2Proof.Machine.execUmull c sf rdLo rdHi rm rs s
  | .umlal c sf rdLo rdHi rm rs => Sys2Proof.Machine.execUmlal c sf rdLo rdHi rm rs s
  | .smull c sf rdLo rdHi rm rs => Sys2Proof.Machine.execSmull c sf rdLo rdHi rm rs s
  | .smlal c sf rdLo rdHi rm rs => Sys2Proof.Machine.execSmlal c sf rdLo rdHi rm rs s
  | .b c imm => Sys2Proof.Machine.execB c imm s
  | .bl c imm => Sys2Proof.Machine.execBl c imm s
  | .bx c rn => Sys2Proof.Machine.execBx c rn s
  | .ldrImm c up wb rd rn off => Sys2Proof.Machine.execLdrImm c up wb rd rn off s
  | .ldrImmPost c up rd rn off => Sys2Proof.Machine.execLdrImmPost c up rd rn off s
  | .ldrReg c up wb rd rn rm sh amt => Sys2Proof.Machine.execLdrReg c up wb rd rn rm sh amt s
  | .ldrRegPost c up rd rn rm sh amt => Sys2Proof.Machine.execLdrRegPost c up rd rn rm sh amt s
  | .ldrtImm c up rd rn off => Sys2Proof.Machine.execLdrtImm c up rd rn off s
  | .ldrtReg c up rd rn rm sh amt => Sys2Proof.Machine.execLdrtReg c up rd rn rm sh amt s
  | .ldrbImm c up wb rd rn off => Sys2Proof.Machine.execLdrbImm c up wb rd rn off s
  | .ldrbImmPost c up rd rn off => Sys2Proof.Machine.execLdrbImmPost c up rd rn off s
  | .ldrbReg c up wb rd rn rm sh amt => Sys2Proof.Machine.execLdrbReg c up wb rd rn rm sh amt s
  | .ldrbRegPost c up rd rn rm sh amt => Sys2Proof.Machine.execLdrbRegPost c up rd rn rm sh amt s
  | .ldrbtImm c up rd rn off => Sys2Proof.Machine.execLdrbtImm c up rd rn off s
  | .ldrbtReg c up rd rn rm sh amt => Sys2Proof.Machine.execLdrbtReg c up rd rn rm sh amt s
  | .ldrsbImm c up wb rd rn off => Sys2Proof.Machine.execLdrsbImm c up wb rd rn off s
  | .ldrsbImmPost c up rd rn off => Sys2Proof.Machine.execLdrsbImmPost c up rd rn off s
  | .ldrsbReg c up wb rd rn rm => Sys2Proof.Machine.execLdrsbReg c up wb rd rn rm s
  | .ldrsbRegPost c up rd rn rm => Sys2Proof.Machine.execLdrsbRegPost c up rd rn rm s
  | .ldrhImm c up wb rd rn off => Sys2Proof.Machine.execLdrhImm c up wb rd rn off s
  | .ldrhImmPost c up rd rn off => Sys2Proof.Machine.execLdrhImmPost c up rd rn off s
  | .ldrhReg c up wb rd rn rm => Sys2Proof.Machine.execLdrhReg c up wb rd rn rm s
  | .ldrhRegPost c up rd rn rm => Sys2Proof.Machine.execLdrhRegPost c up rd rn rm s
  | .ldrshImm c up wb rd rn off => Sys2Proof.Machine.execLdrshImm c up wb rd rn off s
  | .ldrshImmPost c up rd rn off => Sys2Proof.Machine.execLdrshImmPost c up rd rn off s
  | .ldrshReg c up wb rd rn rm => Sys2Proof.Machine.execLdrshReg c up wb rd rn rm s
  | .ldrshRegPost c up rd rn rm => Sys2Proof.Machine.execLdrshRegPost c up rd rn rm s
  | .ldm1 c mode wb rn list => Sys2Proof.Machine.execLdm1 c mode wb rn list s
  | .ldm3 c mode wb rn list => Sys2Proof.Machine.execLdm3 c mode wb rn list s
  | .ldm2 c mode rn list => Sys2Proof.Machine.execLdm2 c mode rn list s
  | .strImm c up wb rd rn off => Sys2Proof.Machine.execStrImm c up wb rd rn off s
  | .strImmPost c up rd rn off => Sys2Proof.Machine.execStrImmPost c up rd rn off s
  | .strReg c up wb rd rn rm sh amt => Sys2Proof.Machine.execStrReg c up wb rd rn rm sh amt s
  | .strRegPost c up rd rn rm sh amt => Sys2Proof.Machine.execStrRegPost c up rd rn rm sh amt s
  | .strtImm c up rd rn off => Sys2Proof.Machine.execStrtImm c up rd rn off s
  | .strtReg c up rd rn rm sh amt => Sys2Proof.Machine.execStrtReg c up rd rn rm sh amt s
  | .strbImm c up wb rd rn off => Sys2Proof.Machine.execStrbImm c up wb rd rn off s
  | .strbImmPost c up rd rn off => Sys2Proof.Machine.execStrbImmPost c up rd rn off s
  | .strbReg c up wb rd rn rm sh amt => Sys2Proof.Machine.execStrbReg c up wb rd rn rm sh amt s
  | .strbRegPost c up rd rn rm sh amt => Sys2Proof.Machine.execStrbRegPost c up rd rn rm sh amt s
  | .strbtImm c up rd rn off => Sys2Proof.Machine.execStrbtImm c up rd rn off s
  | .strbtReg c up rd rn rm sh amt => Sys2Proof.Machine.execStrbtReg c up rd rn rm sh amt s
  | .strhImm c up wb rd rn off => Sys2Proof.Machine.execStrhImm c up wb rd rn off s
  | .strhImmPost c up rd rn off => Sys2Proof.Machine.execStrhImmPost c up rd rn off s
  | .strhReg c up wb rd rn rm => Sys2Proof.Machine.execStrhReg c up wb rd rn rm s
  | .strhRegPost c up rd rn rm => Sys2Proof.Machine.execStrhRegPost c up rd rn rm s
  | .stm1 c mode wb rn list => Sys2Proof.Machine.execStm1 c mode wb rn list s
  | .stm2 c mode rn list => Sys2Proof.Machine.execStm2 c mode rn list s
  | .swp c rd rm rn => Sys2Proof.Machine.execSwp c rd rm rn s
  | .swpb c rd rm rn => Sys2Proof.Machine.execSwpb c rd rm rn s
  | .swi c imm => Sys2Proof.Machine.execSwi c imm s
  | .undefinedSpace c hi lo => Sys2Proof.Machine.execUndefinedSpace c hi lo s
  | .coprocTransfer c rest => Sys2Proof.Machine.execCoprocTransfer c rest s
  | .coprocOperation c rest => Sys2Proof.Machine.execCoprocOperation c rest s

end Sys2Proof.Machine
end

