-- ==== Sys2Proof/Machine/Step.lean ====
section
/-! DEFINITION. One step of the processor: a thin call of the parts, in the order of 60_exceptions.md R371. -/

namespace Sys2Proof.Machine

/-- One step: at the instruction boundary an interrupt, the end of the run or a refusal may come first; otherwise the
instruction at the pc is fetched, decoded and executed (60_exceptions.md R371). -/
def step (s : State) : Host.Outcome State Fault Refusal :=
  let t := consumeInput s
  match boundary (currentLines s.inputs) t with
  | some r => r
  | none =>
    match fetch t with
    | .abort => takeException .prefetchAbort t
    | .refused r => .refused r
    | .done bytes =>
      match decode bytes with
      | .error e => .refused (decodeRefusal e)
      | .ok i =>
        if hazardRefuses i t then .refused .bankedAccessAfterUserTransfer
        else exec i (clearHazard t)

/-- `s` with the four bytes of a table word stored where the next step fetches its instruction. It stands for the
launch loading a program (00_scope.md R19; log 18). -/
def State.withFetchWord (s : State) (nbits w : Nat) : State := storeInstruction (tableWord nbits w) s

end Sys2Proof.Machine
end

