-- ==== Sys2Proof/Machine/Assembly.lean ====
section
/-! DEFINITION. The assembler lines of 30_encoding.md section 7 as structured text: how a written operand becomes the
fields of an instruction (R121 to R125, R135), how a mnemonic is spelled and read (R131 to R134), and `assemble`, from a
line to the instruction it stands for. The source gives no lexical rules for labels, numbers and comments (R135), so an
operand is its value here. No step uses this file. -/

namespace Sys2Proof.Machine

/-! ## Written operands -/

/-- `ROL(v, n)` for `n` in 0 .. 31: what undoes a rotation to the right by `n`. -/
def rotateLeft (v : Word) (n : Nat) : Word := v <<< n ||| v >>> (32 - n)

/-- `#32_Bit_Immed`: the two fields that give a constant, with the smallest rotation; none where no fields do
(30_encoding.md R121). -/
def assembleImmediate (v : Word) : Option (BitVec 4 × BitVec 8) :=
  ((List.range 16).find? fun r => decide ((rotateLeft v (2 * r)).toNat < 256)).map fun r =>
    (BitVec.ofNat 4 r, (rotateLeft v (2 * r)).setWidth 8)

/-- A shift by a constant as written, after `Rm` (30_encoding.md R122). -/
inductive WrittenShift where
  | none
  | lsl (n : Nat)
  | lsr (n : Nat)
  | asr (n : Nat)
  | ror (n : Nat)
  | rrx
deriving DecidableEq, Repr

/-- The shift field and the amount field: the table of 30_encoding.md R122, none where it has no row. -/
def WrittenShift.fields : WrittenShift → Option (Shift × BitVec 5)
  | .none => some (.lsl, 0#5)
  | .lsl n => if n < 32 then some (.lsl, BitVec.ofNat 5 n) else Option.none
  | .lsr n => if 1 ≤ n ∧ n ≤ 32 then some (.lsr, BitVec.ofNat 5 n) else Option.none
  | .asr n => if 1 ≤ n ∧ n ≤ 32 then some (.asr, BitVec.ofNat 5 n) else Option.none
  | .ror n => if 1 ≤ n ∧ n < 32 then some (.ror, BitVec.ofNat 5 n) else Option.none
  | .rrx => some (.ror, 0#5)

/-- `<Oprnd2>` as written: the eleven forms of 40_conditions_operand2.md R143. -/
inductive WrittenOperand2 where
  | constant (v : Word)
  | register (rm : Reg) (sh : WrittenShift)
  | byRegister (rm : Reg) (sh : Shift) (rs : Reg)
deriving DecidableEq, Repr

/-- The operand a written `<Oprnd2>` stands for (30_encoding.md R121, R122). -/
def WrittenOperand2.assemble : WrittenOperand2 → Option Operand2
  | .constant v => (assembleImmediate v).map fun p => .imm p.1 p.2
  | .register rm sh => sh.fields.map fun p => .shiftImm rm p.1 p.2
  | .byRegister rm sh rs => some (.shiftReg rm sh rs)

/-- `signed_immed_24` of a branch at `pc` to a label: none unless the label is word-aligned and within the range of
30_encoding.md R123. -/
def assembleLabel (pc label : Word) : Option (BitVec 24) :=
  let d := (label - (pc + 8#32)).toInt
  if wordAligned label ∧ -33554432 ≤ d ∧ d ≤ 33554428 then some (BitVec.ofInt 24 (d / 4)) else none

/-- The offset of an addressing mode as written, with its sign (30_encoding.md R124; 46_load_store_single.md R266,
R272); `absent` is `[Rn]` alone. -/
inductive WrittenOffset where
  | absent
  | imm (minus : Bool) (magnitude : Nat)
  | reg (minus : Bool) (rm : Reg) (sh : WrittenShift)
deriving DecidableEq, Repr

/-- An addressing mode as written: `[Rn, offset]`, `[Rn, offset]!` or `[Rn], offset` (46_load_store_single.md R266). -/
structure WrittenAddress where
  rn : Reg
  ix : Indexing
  offset : WrittenOffset
deriving DecidableEq, Repr

/-- `<registers>`: bit `i` is 1 exactly when R`i` is named, in whatever order (30_encoding.md R125). -/
def assembleList (regs : List Reg) : BitVec 16 :=
  regs.foldl (fun list r => list ||| BitVec.ofNat 16 (2 ^ regNumber r)) 0#16

/-- A letter of the `{field}` suffix (41_move_psr.md R169). -/
inductive PsrField where
  | c | x | s | f
deriving DecidableEq, Repr

/-- The mask bit a letter sets (41_move_psr.md R169). -/
def PsrField.bit : PsrField → BitVec 4
  | .c => 0b0001#4
  | .x => 0b0010#4
  | .s => 0b0100#4
  | .f => 0b1000#4

/-- `{field}`: at least one letter, in any order (41_move_psr.md R169). -/
def assembleFields (fields : List PsrField) : Option (BitVec 4) :=
  if fields = [] then none else some (fields.foldl (fun mask letter => mask ||| letter.bit) 0#4)

/-- The stack types (30_encoding.md R134, 47_load_store_multiple.md R304). -/
inductive StackType where
  | fd | ed | fa | ea
deriving DecidableEq, Repr

/-- The mode of an LDM as written: a mode or a stack type (30_encoding.md R134). -/
inductive WrittenMode where
  | mode (m : BlockMode)
  | stack (t : StackType)
deriving DecidableEq, Repr

/-- Addressing Mode 4 (30_encoding.md R134, 47_load_store_multiple.md R304). -/
def WrittenMode.ofLoad : WrittenMode → BlockMode
  | .mode m => m
  | .stack .fd => .ia
  | .stack .ed => .ib
  | .stack .fa => .da
  | .stack .ea => .db

/-- Addressing Mode 5 (30_encoding.md R134, 47_load_store_multiple.md R304). -/
def WrittenMode.ofStore : WrittenMode → BlockMode
  | .mode m => m
  | .stack .fd => .db
  | .stack .ed => .da
  | .stack .fa => .ib
  | .stack .ea => .ia

/-! ## Lines (30_encoding.md R132) -/

/-- The instructions with Addressing Mode 1 (46_load_store_single.md R266). -/
inductive Mode1 where
  | ldr | ldrb | str | strb
deriving DecidableEq, Repr

/-- The instructions with Addressing Mode 2 (46_load_store_single.md R271). -/
inductive Mode2 where
  | ldrt | ldrbt | strt | strbt
deriving DecidableEq, Repr

/-- The instructions with Addressing Mode 3 (46_load_store_single.md R272). -/
inductive Mode3 where
  | ldrsb | ldrh | ldrsh | strh
deriving DecidableEq, Repr

/-- A line of 30_encoding.md R132. `plain` is a line whose operands are the instruction's fields themselves. -/
inductive Line where
  | dataProcessing (op : AluOp) (c : Cond) (sf : Bool) (rd rn : Reg) (o : WrittenOperand2)
  | msrRegister (spsr : Bool) (c : Cond) (fields : List PsrField) (rm : Reg)
  | msrImmediate (spsr : Bool) (c : Cond) (v : Word)
  | branch (link : Bool) (c : Cond) (label : Word)
  | mode1 (k : Mode1) (c : Cond) (rd : Reg) (a : WrittenAddress)
  | mode2 (k : Mode2) (c : Cond) (rd : Reg) (a : WrittenAddress)
  | mode3 (k : Mode3) (c : Cond) (rd : Reg) (a : WrittenAddress)
  | loadMultiple (c : Cond) (m : WrittenMode) (wb : Bool) (rn : Reg) (regs : List Reg) (caret : Bool)
  | storeMultiple (c : Cond) (m : WrittenMode) (wb : Bool) (rn : Reg) (regs : List Reg) (caret : Bool)
  | plain (i : Instr)
deriving DecidableEq, Repr

/-- The data-processing instruction of an operation and an operand. MOV and MVN have no `rn`, the compares no `rd` and no
`S`: those arguments are not used there (40_conditions_operand2.md R157). -/
def dataProcessingInstr (op : AluOp) (c : Cond) (sf : Bool) (rd rn : Reg) (o : Operand2) : Instr :=
  match op, o with
  | .mov, .imm rot imm => .movImm c sf rd rot imm
  | .mov, .shiftImm rm sh amt => .movShiftImm c sf rd rm sh amt
  | .mov, .shiftReg rm sh rs => .movShiftReg c sf rd rm sh rs
  | .mvn, .imm rot imm => .mvnImm c sf rd rot imm
  | .mvn, .shiftImm rm sh amt => .mvnShiftImm c sf rd rm sh amt
  | .mvn, .shiftReg rm sh rs => .mvnShiftReg c sf rd rm sh rs
  | .add, .imm rot imm => .addImm c sf rd rn rot imm
  | .add, .shiftImm rm sh amt => .addShiftImm c sf rd rn rm sh amt
  | .add, .shiftReg rm sh rs => .addShiftReg c sf rd rn rm sh rs
  | .adc, .imm rot imm => .adcImm c sf rd rn rot imm
  | .adc, .shiftImm rm sh amt => .adcShiftImm c sf rd rn rm sh amt
  | .adc, .shiftReg rm sh rs => .adcShiftReg c sf rd rn rm sh rs
  | .sub, .imm rot imm => .subImm c sf rd rn rot imm
  | .sub, .shiftImm rm sh amt => .subShiftImm c sf rd rn rm sh amt
  | .sub, .shiftReg rm sh rs => .subShiftReg c sf rd rn rm sh rs
  | .sbc, .imm rot imm => .sbcImm c sf rd rn rot imm
  | .sbc, .shiftImm rm sh amt => .sbcShiftImm c sf rd rn rm sh amt
  | .sbc, .shiftReg rm sh rs => .sbcShiftReg c sf rd rn rm sh rs
  | .rsb, .imm rot imm => .rsbImm c sf rd rn rot imm
  | .rsb, .shiftImm rm sh amt => .rsbShiftImm c sf rd rn rm sh amt
  | .rsb, .shiftReg rm sh rs => .rsbShiftReg c sf rd rn rm sh rs
  | .rsc, .imm rot imm => .rscImm c sf rd rn rot imm
  | .rsc, .shiftImm rm sh amt => .rscShiftImm c sf rd rn rm sh amt
  | .rsc, .shiftReg rm sh rs => .rscShiftReg c sf rd rn rm sh rs
  | .cmp, .imm rot imm => .cmpImm c rn rot imm
  | .cmp, .shiftImm rm sh amt => .cmpShiftImm c rn rm sh amt
  | .cmp, .shiftReg rm sh rs => .cmpShiftReg c rn rm sh rs
  | .cmn, .imm rot imm => .cmnImm c rn rot imm
  | .cmn, .shiftImm rm sh amt => .cmnShiftImm c rn rm sh amt
  | .cmn, .shiftReg rm sh rs => .cmnShiftReg c rn rm sh rs
  | .tst, .imm rot imm => .tstImm c rn rot imm
  | .tst, .shiftImm rm sh amt => .tstShiftImm c rn rm sh amt
  | .tst, .shiftReg rm sh rs => .tstShiftReg c rn rm sh rs
  | .teq, .imm rot imm => .teqImm c rn rot imm
  | .teq, .shiftImm rm sh amt => .teqShiftImm c rn rm sh amt
  | .teq, .shiftReg rm sh rs => .teqShiftReg c rn rm sh rs
  | .and, .imm rot imm => .andImm c sf rd rn rot imm
  | .and, .shiftImm rm sh amt => .andShiftImm c sf rd rn rm sh amt
  | .and, .shiftReg rm sh rs => .andShiftReg c sf rd rn rm sh rs
  | .eor, .imm rot imm => .eorImm c sf rd rn rot imm
  | .eor, .shiftImm rm sh amt => .eorShiftImm c sf rd rn rm sh amt
  | .eor, .shiftReg rm sh rs => .eorShiftReg c sf rd rn rm sh rs
  | .orr, .imm rot imm => .orrImm c sf rd rn rot imm
  | .orr, .shiftImm rm sh amt => .orrShiftImm c sf rd rn rm sh amt
  | .orr, .shiftReg rm sh rs => .orrShiftReg c sf rd rn rm sh rs
  | .bic, .imm rot imm => .bicImm c sf rd rn rot imm
  | .bic, .shiftImm rm sh amt => .bicShiftImm c sf rd rn rm sh amt
  | .bic, .shiftReg rm sh rs => .bicShiftReg c sf rd rn rm sh rs

/-- Immediate offset or pre-indexed (30_encoding.md R114). -/
def Mode1.immediate : Mode1 → Cond → Bool → Bool → Reg → Reg → BitVec 12 → Instr
  | .ldr => .ldrImm
  | .ldrb => .ldrbImm
  | .str => .strImm
  | .strb => .strbImm

/-- Immediate post-indexed (30_encoding.md R114). -/
def Mode1.immediatePost : Mode1 → Cond → Bool → Reg → Reg → BitVec 12 → Instr
  | .ldr => .ldrImmPost
  | .ldrb => .ldrbImmPost
  | .str => .strImmPost
  | .strb => .strbImmPost

/-- Register offset or pre-indexed (30_encoding.md R115). -/
def Mode1.register : Mode1 → Cond → Bool → Bool → Reg → Reg → Reg → Shift → BitVec 5 → Instr
  | .ldr => .ldrReg
  | .ldrb => .ldrbReg
  | .str => .strReg
  | .strb => .strbReg

/-- Register post-indexed (30_encoding.md R115). -/
def Mode1.registerPost : Mode1 → Cond → Bool → Reg → Reg → Reg → Shift → BitVec 5 → Instr
  | .ldr => .ldrRegPost
  | .ldrb => .ldrbRegPost
  | .str => .strRegPost
  | .strb => .strbRegPost

/-- Immediate post-indexed, the only immediate `T` form (46_load_store_single.md R271). -/
def Mode2.immediate : Mode2 → Cond → Bool → Reg → Reg → BitVec 12 → Instr
  | .ldrt => .ldrtImm
  | .ldrbt => .ldrbtImm
  | .strt => .strtImm
  | .strbt => .strbtImm

/-- Register post-indexed, the only register `T` form (46_load_store_single.md R271). -/
def Mode2.register : Mode2 → Cond → Bool → Reg → Reg → Reg → Shift → BitVec 5 → Instr
  | .ldrt => .ldrtReg
  | .ldrbt => .ldrbtReg
  | .strt => .strtReg
  | .strbt => .strbtReg

/-- Immediate offset or pre-indexed (30_encoding.md R116). -/
def Mode3.immediate : Mode3 → Cond → Bool → Bool → Reg → Reg → BitVec 8 → Instr
  | .ldrsb => .ldrsbImm
  | .ldrh => .ldrhImm
  | .ldrsh => .ldrshImm
  | .strh => .strhImm

/-- Immediate post-indexed (30_encoding.md R116). -/
def Mode3.immediatePost : Mode3 → Cond → Bool → Reg → Reg → BitVec 8 → Instr
  | .ldrsb => .ldrsbImmPost
  | .ldrh => .ldrhImmPost
  | .ldrsh => .ldrshImmPost
  | .strh => .strhImmPost

/-- Register offset or pre-indexed (30_encoding.md R117). -/
def Mode3.register : Mode3 → Cond → Bool → Bool → Reg → Reg → Reg → Instr
  | .ldrsb => .ldrsbReg
  | .ldrh => .ldrhReg
  | .ldrsh => .ldrshReg
  | .strh => .strhReg

/-- Register post-indexed (30_encoding.md R117). -/
def Mode3.registerPost : Mode3 → Cond → Bool → Reg → Reg → Reg → Instr
  | .ldrsb => .ldrsbRegPost
  | .ldrh => .ldrhRegPost
  | .ldrsh => .ldrshRegPost
  | .strh => .strhRegPost

/-- A line with Addressing Mode 1 (46_load_store_single.md R266, 30_encoding.md R124): the magnitude is at most 4095. -/
def assembleMode1 (k : Mode1) (c : Cond) (rd : Reg) (a : WrittenAddress) : Option Instr :=
  match a.offset with
  | .absent => if a.ix = .plain then some (k.immediate c true false rd a.rn 0#12) else none
  | .imm minus n =>
    if n < 4096 then
      match a.ix with
      | .plain => some (k.immediate c (!minus) false rd a.rn (BitVec.ofNat 12 n))
      | .preIndexed => some (k.immediate c (!minus) true rd a.rn (BitVec.ofNat 12 n))
      | .postIndexed => some (k.immediatePost c (!minus) rd a.rn (BitVec.ofNat 12 n))
    else none
  | .reg minus rm sh =>
    sh.fields.map fun p =>
      match a.ix with
      | .plain => k.register c (!minus) false rd a.rn rm p.1 p.2
      | .preIndexed => k.register c (!minus) true rd a.rn rm p.1 p.2
      | .postIndexed => k.registerPost c (!minus) rd a.rn rm p.1 p.2

/-- A line with Addressing Mode 2 (46_load_store_single.md R271): post-indexed, and `[Rn]` alone as `[Rn], #0`. -/
def assembleMode2 (k : Mode2) (c : Cond) (rd : Reg) (a : WrittenAddress) : Option Instr :=
  match a.ix, a.offset with
  | .plain, .absent => some (k.immediate c true rd a.rn 0#12)
  | .postIndexed, .imm minus n => if n < 4096 then some (k.immediate c (!minus) rd a.rn (BitVec.ofNat 12 n)) else none
  | .postIndexed, .reg minus rm sh => sh.fields.map fun p => k.register c (!minus) rd a.rn rm p.1 p.2
  | _, _ => none

/-- A line with Addressing Mode 3 (46_load_store_single.md R272, 30_encoding.md R124): the magnitude is at most 255, a
register has no shift. -/
def assembleMode3 (k : Mode3) (c : Cond) (rd : Reg) (a : WrittenAddress) : Option Instr :=
  match a.offset with
  | .absent => if a.ix = .plain then some (k.immediate c true false rd a.rn 0#8) else none
  | .imm minus n =>
    if n < 256 then
      match a.ix with
      | .plain => some (k.immediate c (!minus) false rd a.rn (BitVec.ofNat 8 n))
      | .preIndexed => some (k.immediate c (!minus) true rd a.rn (BitVec.ofNat 8 n))
      | .postIndexed => some (k.immediatePost c (!minus) rd a.rn (BitVec.ofNat 8 n))
    else none
  | .reg minus rm sh =>
    if sh = .none then
      match a.ix with
      | .plain => some (k.register c (!minus) false rd a.rn rm)
      | .preIndexed => some (k.register c (!minus) true rd a.rn rm)
      | .postIndexed => some (k.registerPost c (!minus) rd a.rn rm)
    else none

/-- An LDM line: `^` with R15 listed restores the CPSR, `^` without it loads the User bank and takes no `!`
(47_load_store_multiple.md R300). -/
def assembleLoadMultiple (c : Cond) (m : BlockMode) (wb : Bool) (rn : Reg) (list : BitVec 16) (caret : Bool) :
    Option Instr :=
  if !caret then some (.ldm1 c m wb rn list)
  else if list.getLsbD 15 then some (.ldm3 c m wb rn list)
  else if wb then none
  else some (.ldm2 c m rn list)

/-- An STM line: `^` stores the User bank and takes no `!` (47_load_store_multiple.md R300). -/
def assembleStoreMultiple (c : Cond) (m : BlockMode) (wb : Bool) (rn : Reg) (list : BitVec 16) (caret : Bool) :
    Option Instr :=
  if !caret then some (.stm1 c m wb rn list)
  else if wb then none
  else some (.stm2 c m rn list)

/-- The instructions whose line writes their fields as they are: MRS, the multiplies, BX, SWP, SWI (30_encoding.md
R132). -/
def isPlain : Instr → Bool
  | .mrsCpsr _ _ | .mrsSpsr _ _ | .mul _ _ _ _ _ | .mla _ _ _ _ _ _ | .umull _ _ _ _ _ _ | .umlal _ _ _ _ _ _
  | .smull _ _ _ _ _ _ | .smlal _ _ _ _ _ _ | .bx _ _ | .swp _ _ _ _ | .swpb _ _ _ _ | .swi _ _ => true
  | _ => false

/-- The instruction a line at address `pc` stands for; none where an operand cannot be written in its fields
(30_encoding.md R121 to R125, R132). The immediate form of MSR takes `_f` alone (41_move_psr.md R169, R176, R177). -/
def assemble (pc : Word) : Line → Option Instr
  | .dataProcessing op c sf rd rn o => o.assemble.map (dataProcessingInstr op c sf rd rn)
  | .msrRegister spsr c fields rm =>
    (assembleFields fields).map fun mask => if spsr then .msrSpsrReg c mask rm else .msrCpsrReg c mask rm
  | .msrImmediate spsr c v =>
    (assembleImmediate v).map fun p =>
      if spsr then .msrSpsrImm c PsrField.f.bit p.1 p.2 else .msrCpsrImm c PsrField.f.bit p.1 p.2
  | .branch link c label => (assembleLabel pc label).map fun imm => if link then .bl c imm else .b c imm
  | .mode1 k c rd a => assembleMode1 k c rd a
  | .mode2 k c rd a => assembleMode2 k c rd a
  | .mode3 k c rd a => assembleMode3 k c rd a
  | .loadMultiple c m wb rn regs caret => assembleLoadMultiple c m.ofLoad wb rn (assembleList regs) caret
  | .storeMultiple c m wb rn regs caret => assembleStoreMultiple c m.ofStore wb rn (assembleList regs) caret
  | .plain i => if isPlain i then some i else none

/-! ## Mnemonics (30_encoding.md R131 to R134) -/

/-- The condition suffixes (40_conditions_operand2.md R140); AL is also written as nothing. -/
def Cond.suffix : Cond → String
  | .eq => "EQ"
  | .ne => "NE"
  | .cs => "CS"
  | .cc => "CC"
  | .mi => "MI"
  | .pl => "PL"
  | .vs => "VS"
  | .vc => "VC"
  | .hi => "HI"
  | .ls => "LS"
  | .ge => "GE"
  | .lt => "LT"
  | .gt => "GT"
  | .le => "LE"
  | .al => "AL"

/-- A mnemonic in its parts: the root, the condition, and what follows it in the canonical order (30_encoding.md R133). -/
structure Mnemonic where
  root : String
  cond : Cond
  suffix : String
deriving DecidableEq, Repr

/-- The `S` suffix. -/
def sSuffix (sf : Bool) : String := if sf then "S" else ""

/-- The name of a block-transfer mode. -/
def BlockMode.suffix : BlockMode → String
  | .ia => "IA"
  | .ib => "IB"
  | .da => "DA"
  | .db => "DB"

/-- The mnemonic of an instruction (30_encoding.md R132); the words of the undefined and coprocessor spaces have none. -/
def mnemonicOf : Instr → Option Mnemonic
  | .movImm c sf _ _ _ => some ⟨"MOV", c, (sSuffix sf)⟩
  | .movShiftImm c sf _ _ _ _ => some ⟨"MOV", c, (sSuffix sf)⟩
  | .movShiftReg c sf _ _ _ _ => some ⟨"MOV", c, (sSuffix sf)⟩
  | .mvnImm c sf _ _ _ => some ⟨"MVN", c, (sSuffix sf)⟩
  | .mvnShiftImm c sf _ _ _ _ => some ⟨"MVN", c, (sSuffix sf)⟩
  | .mvnShiftReg c sf _ _ _ _ => some ⟨"MVN", c, (sSuffix sf)⟩
  | .addImm c sf _ _ _ _ => some ⟨"ADD", c, (sSuffix sf)⟩
  | .addShiftImm c sf _ _ _ _ _ => some ⟨"ADD", c, (sSuffix sf)⟩
  | .addShiftReg c sf _ _ _ _ _ => some ⟨"ADD", c, (sSuffix sf)⟩
  | .adcImm c sf _ _ _ _ => some ⟨"ADC", c, (sSuffix sf)⟩
  | .adcShiftImm c sf _ _ _ _ _ => some ⟨"ADC", c, (sSuffix sf)⟩
  | .adcShiftReg c sf _ _ _ _ _ => some ⟨"ADC", c, (sSuffix sf)⟩
  | .subImm c sf _ _ _ _ => some ⟨"SUB", c, (sSuffix sf)⟩
  | .subShiftImm c sf _ _ _ _ _ => some ⟨"SUB", c, (sSuffix sf)⟩
  | .subShiftReg c sf _ _ _ _ _ => some ⟨"SUB", c, (sSuffix sf)⟩
  | .sbcImm c sf _ _ _ _ => some ⟨"SBC", c, (sSuffix sf)⟩
  | .sbcShiftImm c sf _ _ _ _ _ => some ⟨"SBC", c, (sSuffix sf)⟩
  | .sbcShiftReg c sf _ _ _ _ _ => some ⟨"SBC", c, (sSuffix sf)⟩
  | .rsbImm c sf _ _ _ _ => some ⟨"RSB", c, (sSuffix sf)⟩
  | .rsbShiftImm c sf _ _ _ _ _ => some ⟨"RSB", c, (sSuffix sf)⟩
  | .rsbShiftReg c sf _ _ _ _ _ => some ⟨"RSB", c, (sSuffix sf)⟩
  | .rscImm c sf _ _ _ _ => some ⟨"RSC", c, (sSuffix sf)⟩
  | .rscShiftImm c sf _ _ _ _ _ => some ⟨"RSC", c, (sSuffix sf)⟩
  | .rscShiftReg c sf _ _ _ _ _ => some ⟨"RSC", c, (sSuffix sf)⟩
  | .cmpImm c _ _ _ => some ⟨"CMP", c, ""⟩
  | .cmpShiftImm c _ _ _ _ => some ⟨"CMP", c, ""⟩
  | .cmpShiftReg c _ _ _ _ => some ⟨"CMP", c, ""⟩
  | .cmnImm c _ _ _ => some ⟨"CMN", c, ""⟩
  | .cmnShiftImm c _ _ _ _ => some ⟨"CMN", c, ""⟩
  | .cmnShiftReg c _ _ _ _ => some ⟨"CMN", c, ""⟩
  | .tstImm c _ _ _ => some ⟨"TST", c, ""⟩
  | .tstShiftImm c _ _ _ _ => some ⟨"TST", c, ""⟩
  | .tstShiftReg c _ _ _ _ => some ⟨"TST", c, ""⟩
  | .teqImm c _ _ _ => some ⟨"TEQ", c, ""⟩
  | .teqShiftImm c _ _ _ _ => some ⟨"TEQ", c, ""⟩
  | .teqShiftReg c _ _ _ _ => some ⟨"TEQ", c, ""⟩
  | .andImm c sf _ _ _ _ => some ⟨"AND", c, (sSuffix sf)⟩
  | .andShiftImm c sf _ _ _ _ _ => some ⟨"AND", c, (sSuffix sf)⟩
  | .andShiftReg c sf _ _ _ _ _ => some ⟨"AND", c, (sSuffix sf)⟩
  | .eorImm c sf _ _ _ _ => some ⟨"EOR", c, (sSuffix sf)⟩
  | .eorShiftImm c sf _ _ _ _ _ => some ⟨"EOR", c, (sSuffix sf)⟩
  | .eorShiftReg c sf _ _ _ _ _ => some ⟨"EOR", c, (sSuffix sf)⟩
  | .orrImm c sf _ _ _ _ => some ⟨"ORR", c, (sSuffix sf)⟩
  | .orrShiftImm c sf _ _ _ _ _ => some ⟨"ORR", c, (sSuffix sf)⟩
  | .orrShiftReg c sf _ _ _ _ _ => some ⟨"ORR", c, (sSuffix sf)⟩
  | .bicImm c sf _ _ _ _ => some ⟨"BIC", c, (sSuffix sf)⟩
  | .bicShiftImm c sf _ _ _ _ _ => some ⟨"BIC", c, (sSuffix sf)⟩
  | .bicShiftReg c sf _ _ _ _ _ => some ⟨"BIC", c, (sSuffix sf)⟩
  | .mrsCpsr c _ => some ⟨"MRS", c, ""⟩
  | .mrsSpsr c _ => some ⟨"MRS", c, ""⟩
  | .msrCpsrReg c _ _ => some ⟨"MSR", c, ""⟩
  | .msrSpsrReg c _ _ => some ⟨"MSR", c, ""⟩
  | .msrCpsrImm c _ _ _ => some ⟨"MSR", c, ""⟩
  | .msrSpsrImm c _ _ _ => some ⟨"MSR", c, ""⟩
  | .mul c sf _ _ _ => some ⟨"MUL", c, (sSuffix sf)⟩
  | .mla c sf _ _ _ _ => some ⟨"MLA", c, (sSuffix sf)⟩
  | .umull c sf _ _ _ _ => some ⟨"UMULL", c, (sSuffix sf)⟩
  | .umlal c sf _ _ _ _ => some ⟨"UMLAL", c, (sSuffix sf)⟩
  | .smull c sf _ _ _ _ => some ⟨"SMULL", c, (sSuffix sf)⟩
  | .smlal c sf _ _ _ _ => some ⟨"SMLAL", c, (sSuffix sf)⟩
  | .b c _ => some ⟨"B", c, ""⟩
  | .bl c _ => some ⟨"BL", c, ""⟩
  | .bx c _ => some ⟨"BX", c, ""⟩
  | .ldrImm c _ _ _ _ _ => some ⟨"LDR", c, ""⟩
  | .ldrImmPost c _ _ _ _ => some ⟨"LDR", c, ""⟩
  | .ldrReg c _ _ _ _ _ _ _ => some ⟨"LDR", c, ""⟩
  | .ldrRegPost c _ _ _ _ _ _ => some ⟨"LDR", c, ""⟩
  | .ldrtImm c _ _ _ _ => some ⟨"LDR", c, "T"⟩
  | .ldrtReg c _ _ _ _ _ _ => some ⟨"LDR", c, "T"⟩
  | .ldrbImm c _ _ _ _ _ => some ⟨"LDR", c, "B"⟩
  | .ldrbImmPost c _ _ _ _ => some ⟨"LDR", c, "B"⟩
  | .ldrbReg c _ _ _ _ _ _ _ => some ⟨"LDR", c, "B"⟩
  | .ldrbRegPost c _ _ _ _ _ _ => some ⟨"LDR", c, "B"⟩
  | .ldrbtImm c _ _ _ _ => some ⟨"LDR", c, "BT"⟩
  | .ldrbtReg c _ _ _ _ _ _ => some ⟨"LDR", c, "BT"⟩
  | .ldrsbImm c _ _ _ _ _ => some ⟨"LDR", c, "SB"⟩
  | .ldrsbImmPost c _ _ _ _ => some ⟨"LDR", c, "SB"⟩
  | .ldrsbReg c _ _ _ _ _ => some ⟨"LDR", c, "SB"⟩
  | .ldrsbRegPost c _ _ _ _ => some ⟨"LDR", c, "SB"⟩
  | .ldrhImm c _ _ _ _ _ => some ⟨"LDR", c, "H"⟩
  | .ldrhImmPost c _ _ _ _ => some ⟨"LDR", c, "H"⟩
  | .ldrhReg c _ _ _ _ _ => some ⟨"LDR", c, "H"⟩
  | .ldrhRegPost c _ _ _ _ => some ⟨"LDR", c, "H"⟩
  | .ldrshImm c _ _ _ _ _ => some ⟨"LDR", c, "SH"⟩
  | .ldrshImmPost c _ _ _ _ => some ⟨"LDR", c, "SH"⟩
  | .ldrshReg c _ _ _ _ _ => some ⟨"LDR", c, "SH"⟩
  | .ldrshRegPost c _ _ _ _ => some ⟨"LDR", c, "SH"⟩
  | .ldm1 c mode _ _ _ => some ⟨"LDM", c, (BlockMode.suffix mode)⟩
  | .ldm3 c mode _ _ _ => some ⟨"LDM", c, (BlockMode.suffix mode)⟩
  | .ldm2 c mode _ _ => some ⟨"LDM", c, (BlockMode.suffix mode)⟩
  | .strImm c _ _ _ _ _ => some ⟨"STR", c, ""⟩
  | .strImmPost c _ _ _ _ => some ⟨"STR", c, ""⟩
  | .strReg c _ _ _ _ _ _ _ => some ⟨"STR", c, ""⟩
  | .strRegPost c _ _ _ _ _ _ => some ⟨"STR", c, ""⟩
  | .strtImm c _ _ _ _ => some ⟨"STR", c, "T"⟩
  | .strtReg c _ _ _ _ _ _ => some ⟨"STR", c, "T"⟩
  | .strbImm c _ _ _ _ _ => some ⟨"STR", c, "B"⟩
  | .strbImmPost c _ _ _ _ => some ⟨"STR", c, "B"⟩
  | .strbReg c _ _ _ _ _ _ _ => some ⟨"STR", c, "B"⟩
  | .strbRegPost c _ _ _ _ _ _ => some ⟨"STR", c, "B"⟩
  | .strbtImm c _ _ _ _ => some ⟨"STR", c, "BT"⟩
  | .strbtReg c _ _ _ _ _ _ => some ⟨"STR", c, "BT"⟩
  | .strhImm c _ _ _ _ _ => some ⟨"STR", c, "H"⟩
  | .strhImmPost c _ _ _ _ => some ⟨"STR", c, "H"⟩
  | .strhReg c _ _ _ _ _ => some ⟨"STR", c, "H"⟩
  | .strhRegPost c _ _ _ _ => some ⟨"STR", c, "H"⟩
  | .stm1 c mode _ _ _ => some ⟨"STM", c, (BlockMode.suffix mode)⟩
  | .stm2 c mode _ _ => some ⟨"STM", c, (BlockMode.suffix mode)⟩
  | .swp c _ _ _ => some ⟨"SWP", c, ""⟩
  | .swpb c _ _ _ => some ⟨"SWP", c, "B"⟩
  | .swi c _ => some ⟨"SWI", c, ""⟩
  | .undefinedSpace _ _ _ => none
  | .coprocTransfer _ _ => none
  | .coprocOperation _ _ => none

/-- The roots with the suffixes each may take after the condition: the lines of 30_encoding.md R132 and the stack types
of R134. No other mnemonic is one (R131). -/
def mnemonicTable : List (String × List String) :=
  (["MOV", "MVN", "ADD", "ADC", "SUB", "SBC", "RSB", "RSC", "AND", "EOR", "ORR", "BIC", "MUL", "MLA", "UMULL", "UMLAL",
    "SMULL", "SMLAL"].map fun r => (r, ["", "S"])) ++
  (["MRS", "MSR", "CMP", "CMN", "TST", "TEQ", "B", "BL", "BX", "SWI"].map fun r => (r, [""])) ++
  [("LDR", ["", "T", "B", "BT", "SB", "H", "SH"]), ("STR", ["", "T", "B", "BT", "H"]), ("SWP", ["", "B"]),
   ("LDM", ["IA", "IB", "DA", "DB", "FD", "ED", "FA", "EA"]), ("STM", ["IA", "IB", "DA", "DB", "FD", "ED", "FA", "EA"])]

/-- The fifteen conditions. -/
def allConds : List Cond := [.eq, .ne, .cs, .cc, .mi, .pl, .vs, .vc, .hi, .ls, .ge, .lt, .gt, .le, .al]

/-- The spellings of a mnemonic: the condition before the suffix, for AL also no condition; STRT, STRB and STRBT also with
the condition last (30_encoding.md R133). -/
def Mnemonic.spellings (m : Mnemonic) : List String :=
  let first := [m.root ++ Cond.suffix m.cond ++ m.suffix]
  let bare := if m.cond = .al then [m.root ++ m.suffix] else []
  let last :=
    if m.root = "STR" ∧ m.suffix ∈ ["T", "B", "BT"] then [m.root ++ m.suffix ++ Cond.suffix m.cond] else []
  first ++ bare ++ last

/-- The mnemonics a table of roots and suffixes allows. -/
def mnemonicsOf (rows : List (String × List String)) : List Mnemonic :=
  rows.flatMap fun r => r.2.flatMap fun s => allConds.map fun c => ⟨r.1, c, s⟩

/-- Read a mnemonic; none for a text that is no spelling of one (30_encoding.md R131, R133). -/
def readMnemonic (text : String) : Option Mnemonic :=
  (mnemonicsOf mnemonicTable).find? fun m => m.spellings.contains text

end Sys2Proof.Machine
end

