-- ==== Sys2Proof/Safety.lean ====
section
/-! DEFINITION. The terms the statements use: the invariant of a run, the fields common to a family of instructions,
and what the spec's rules give, written from the rules and not from the meanings. -/

namespace Sys2Proof.Safety

open Sys2Proof.Machine

/-! ## What holds along a run -/

/-- What every step keeps: memory is canonical, the pc is word-aligned and the T bit clear (10_state.md R35, R37, R41),
and the hazard bit stands only in a mode with an SPSR (47_load_store_multiple.md R305; 70_reset_and_hazards.md R415). -/
abbrev Inv (s : State) : Prop :=
  Memory.wf s.mem = true ∧ wordAligned s.pc = true ∧ s.cpsr.t = false ∧
    (s.afterUserTransfer = true → s.cpsr.m ≠ .user ∧ s.cpsr.m ≠ .system)

/-- The condition passes in the state (40_conditions_operand2.md R141). -/
abbrev Passes (c : Cond) (s : State) : Prop := conditionPassed c s.cpsr = true

/-- The instruction is not the last word of the address space (10_state.md R38). -/
abbrev HasNext (s : State) : Prop := s.pc.toNat + 4 < 2 ^ 32

/-- One of the `n` bytes from `a` lies in `CODE_REGION` (20_memory.md R85). -/
abbrev InCode (s : State) (a n : Nat) : Prop := touches s.platform.codeRegion a n = true

/-- An access of `n` bytes at `addr` is aligned and every byte of it is present (20_memory.md R72, R73). -/
abbrev Reachable (s : State) (addr : Word) (n : Nat) : Prop :=
  addr.toNat % n = 0 ∧ touches s.platform.absent addr.toNat n = false

/-- A read that neither is refused nor aborts (20_memory.md R72). -/
abbrev CanRead (s : State) (addr : Word) (n : Nat) (user : Bool) : Prop :=
  Reachable s addr n ∧ memAborts s.platform addr.toNat n .read user = false

/-- A write that neither is refused nor aborts (20_memory.md R73). -/
abbrev CanWrite (s : State) (addr : Word) (n : Nat) (user : Bool) : Prop :=
  Reachable s addr n ∧ ¬ InCode s addr.toNat n ∧ memAborts s.platform addr.toNat n .write user = false

/-- No interrupt is taken at this boundary, the run does not end here and T is clear: the instruction at the pc is
fetched (60_exceptions.md R371; 00_scope.md R18). -/
abbrev ReachesFetch (s : State) : Prop :=
  pendingInterrupt (currentLines s.inputs) s.cpsr = none ∧ s.platform.endPc ≠ some s.pc ∧ s.cpsr.t = false

/-- The next step fetches the instruction word `w` (20_memory.md R76). -/
abbrev Fetches (s : State) (w : Word) : Prop :=
  ReachesFetch s ∧ memAborts s.platform s.pc.toNat 4 .fetch (userMode s) = false ∧ Reachable s s.pc 4 ∧
    (List.range 4).map (fun k => readByte s.mem (s.pc.toNat + k)) = bytesOfWord w

/-! ## Families of instructions -/

/-- The condition field of an instruction (30_encoding.md R100). -/
def condOf : Instr → Cond
  | .movImm c _ _ _ _ => c
  | .movShiftImm c _ _ _ _ _ => c
  | .movShiftReg c _ _ _ _ _ => c
  | .mvnImm c _ _ _ _ => c
  | .mvnShiftImm c _ _ _ _ _ => c
  | .mvnShiftReg c _ _ _ _ _ => c
  | .addImm c _ _ _ _ _ => c
  | .addShiftImm c _ _ _ _ _ _ => c
  | .addShiftReg c _ _ _ _ _ _ => c
  | .adcImm c _ _ _ _ _ => c
  | .adcShiftImm c _ _ _ _ _ _ => c
  | .adcShiftReg c _ _ _ _ _ _ => c
  | .subImm c _ _ _ _ _ => c
  | .subShiftImm c _ _ _ _ _ _ => c
  | .subShiftReg c _ _ _ _ _ _ => c
  | .sbcImm c _ _ _ _ _ => c
  | .sbcShiftImm c _ _ _ _ _ _ => c
  | .sbcShiftReg c _ _ _ _ _ _ => c
  | .rsbImm c _ _ _ _ _ => c
  | .rsbShiftImm c _ _ _ _ _ _ => c
  | .rsbShiftReg c _ _ _ _ _ _ => c
  | .rscImm c _ _ _ _ _ => c
  | .rscShiftImm c _ _ _ _ _ _ => c
  | .rscShiftReg c _ _ _ _ _ _ => c
  | .cmpImm c _ _ _ => c
  | .cmpShiftImm c _ _ _ _ => c
  | .cmpShiftReg c _ _ _ _ => c
  | .cmnImm c _ _ _ => c
  | .cmnShiftImm c _ _ _ _ => c
  | .cmnShiftReg c _ _ _ _ => c
  | .tstImm c _ _ _ => c
  | .tstShiftImm c _ _ _ _ => c
  | .tstShiftReg c _ _ _ _ => c
  | .teqImm c _ _ _ => c
  | .teqShiftImm c _ _ _ _ => c
  | .teqShiftReg c _ _ _ _ => c
  | .andImm c _ _ _ _ _ => c
  | .andShiftImm c _ _ _ _ _ _ => c
  | .andShiftReg c _ _ _ _ _ _ => c
  | .eorImm c _ _ _ _ _ => c
  | .eorShiftImm c _ _ _ _ _ _ => c
  | .eorShiftReg c _ _ _ _ _ _ => c
  | .orrImm c _ _ _ _ _ => c
  | .orrShiftImm c _ _ _ _ _ _ => c
  | .orrShiftReg c _ _ _ _ _ _ => c
  | .bicImm c _ _ _ _ _ => c
  | .bicShiftImm c _ _ _ _ _ _ => c
  | .bicShiftReg c _ _ _ _ _ _ => c
  | .mrsCpsr c _ => c
  | .mrsSpsr c _ => c
  | .msrCpsrReg c _ _ => c
  | .msrSpsrReg c _ _ => c
  | .msrCpsrImm c _ _ _ => c
  | .msrSpsrImm c _ _ _ => c
  | .mul c _ _ _ _ => c
  | .mla c _ _ _ _ _ => c
  | .umull c _ _ _ _ _ => c
  | .umlal c _ _ _ _ _ => c
  | .smull c _ _ _ _ _ => c
  | .smlal c _ _ _ _ _ => c
  | .b c _ => c
  | .bl c _ => c
  | .bx c _ => c
  | .ldrImm c _ _ _ _ _ => c
  | .ldrImmPost c _ _ _ _ => c
  | .ldrReg c _ _ _ _ _ _ _ => c
  | .ldrRegPost c _ _ _ _ _ _ => c
  | .ldrtImm c _ _ _ _ => c
  | .ldrtReg c _ _ _ _ _ _ => c
  | .ldrbImm c _ _ _ _ _ => c
  | .ldrbImmPost c _ _ _ _ => c
  | .ldrbReg c _ _ _ _ _ _ _ => c
  | .ldrbRegPost c _ _ _ _ _ _ => c
  | .ldrbtImm c _ _ _ _ => c
  | .ldrbtReg c _ _ _ _ _ _ => c
  | .ldrsbImm c _ _ _ _ _ => c
  | .ldrsbImmPost c _ _ _ _ => c
  | .ldrsbReg c _ _ _ _ _ => c
  | .ldrsbRegPost c _ _ _ _ => c
  | .ldrhImm c _ _ _ _ _ => c
  | .ldrhImmPost c _ _ _ _ => c
  | .ldrhReg c _ _ _ _ _ => c
  | .ldrhRegPost c _ _ _ _ => c
  | .ldrshImm c _ _ _ _ _ => c
  | .ldrshImmPost c _ _ _ _ => c
  | .ldrshReg c _ _ _ _ _ => c
  | .ldrshRegPost c _ _ _ _ => c
  | .ldm1 c _ _ _ _ => c
  | .ldm3 c _ _ _ _ => c
  | .ldm2 c _ _ _ => c
  | .strImm c _ _ _ _ _ => c
  | .strImmPost c _ _ _ _ => c
  | .strReg c _ _ _ _ _ _ _ => c
  | .strRegPost c _ _ _ _ _ _ => c
  | .strtImm c _ _ _ _ => c
  | .strtReg c _ _ _ _ _ _ => c
  | .strbImm c _ _ _ _ _ => c
  | .strbImmPost c _ _ _ _ => c
  | .strbReg c _ _ _ _ _ _ _ => c
  | .strbRegPost c _ _ _ _ _ _ => c
  | .strbtImm c _ _ _ _ => c
  | .strbtReg c _ _ _ _ _ _ => c
  | .strhImm c _ _ _ _ _ => c
  | .strhImmPost c _ _ _ _ => c
  | .strhReg c _ _ _ _ _ => c
  | .strhRegPost c _ _ _ _ => c
  | .stm1 c _ _ _ _ => c
  | .stm2 c _ _ _ => c
  | .swp c _ _ _ => c
  | .swpb c _ _ _ => c
  | .swi c _ => c
  | .undefinedSpace c _ _ => c
  | .coprocTransfer c _ => c
  | .coprocOperation c _ => c

/-- What the sixteen data-processing instructions have in common (40_conditions_operand2.md R157): `rd` and `rn` are
absent where the instruction has none. -/
structure DpForm where
  op : AluOp
  cond : Cond
  sf : Bool
  rd : Option Reg
  rn : Option Reg
  o : Operand2
deriving DecidableEq, Repr

/-- The data-processing form of an instruction: the 48 rows of MOV, MVN, ADD, ADC, SUB, SBC, RSB, RSC, CMP, CMN, TST,
TEQ, AND, EOR, ORR, BIC. CMP, CMN, TST and TEQ always set the flags (44_compare_logical.md R238). -/
def dpForm? : Instr → Option DpForm
  | .movImm c sf rd rot imm => some ⟨.mov, c, sf, (some rd), none, (.imm rot imm)⟩
  | .movShiftImm c sf rd rm sh amt => some ⟨.mov, c, sf, (some rd), none, (.shiftImm rm sh amt)⟩
  | .movShiftReg c sf rd rm sh rs => some ⟨.mov, c, sf, (some rd), none, (.shiftReg rm sh rs)⟩
  | .mvnImm c sf rd rot imm => some ⟨.mvn, c, sf, (some rd), none, (.imm rot imm)⟩
  | .mvnShiftImm c sf rd rm sh amt => some ⟨.mvn, c, sf, (some rd), none, (.shiftImm rm sh amt)⟩
  | .mvnShiftReg c sf rd rm sh rs => some ⟨.mvn, c, sf, (some rd), none, (.shiftReg rm sh rs)⟩
  | .addImm c sf rd rn rot imm => some ⟨.add, c, sf, (some rd), (some rn), (.imm rot imm)⟩
  | .addShiftImm c sf rd rn rm sh amt => some ⟨.add, c, sf, (some rd), (some rn), (.shiftImm rm sh amt)⟩
  | .addShiftReg c sf rd rn rm sh rs => some ⟨.add, c, sf, (some rd), (some rn), (.shiftReg rm sh rs)⟩
  | .adcImm c sf rd rn rot imm => some ⟨.adc, c, sf, (some rd), (some rn), (.imm rot imm)⟩
  | .adcShiftImm c sf rd rn rm sh amt => some ⟨.adc, c, sf, (some rd), (some rn), (.shiftImm rm sh amt)⟩
  | .adcShiftReg c sf rd rn rm sh rs => some ⟨.adc, c, sf, (some rd), (some rn), (.shiftReg rm sh rs)⟩
  | .subImm c sf rd rn rot imm => some ⟨.sub, c, sf, (some rd), (some rn), (.imm rot imm)⟩
  | .subShiftImm c sf rd rn rm sh amt => some ⟨.sub, c, sf, (some rd), (some rn), (.shiftImm rm sh amt)⟩
  | .subShiftReg c sf rd rn rm sh rs => some ⟨.sub, c, sf, (some rd), (some rn), (.shiftReg rm sh rs)⟩
  | .sbcImm c sf rd rn rot imm => some ⟨.sbc, c, sf, (some rd), (some rn), (.imm rot imm)⟩
  | .sbcShiftImm c sf rd rn rm sh amt => some ⟨.sbc, c, sf, (some rd), (some rn), (.shiftImm rm sh amt)⟩
  | .sbcShiftReg c sf rd rn rm sh rs => some ⟨.sbc, c, sf, (some rd), (some rn), (.shiftReg rm sh rs)⟩
  | .rsbImm c sf rd rn rot imm => some ⟨.rsb, c, sf, (some rd), (some rn), (.imm rot imm)⟩
  | .rsbShiftImm c sf rd rn rm sh amt => some ⟨.rsb, c, sf, (some rd), (some rn), (.shiftImm rm sh amt)⟩
  | .rsbShiftReg c sf rd rn rm sh rs => some ⟨.rsb, c, sf, (some rd), (some rn), (.shiftReg rm sh rs)⟩
  | .rscImm c sf rd rn rot imm => some ⟨.rsc, c, sf, (some rd), (some rn), (.imm rot imm)⟩
  | .rscShiftImm c sf rd rn rm sh amt => some ⟨.rsc, c, sf, (some rd), (some rn), (.shiftImm rm sh amt)⟩
  | .rscShiftReg c sf rd rn rm sh rs => some ⟨.rsc, c, sf, (some rd), (some rn), (.shiftReg rm sh rs)⟩
  | .cmpImm c rn rot imm => some ⟨.cmp, c, true, none, (some rn), (.imm rot imm)⟩
  | .cmpShiftImm c rn rm sh amt => some ⟨.cmp, c, true, none, (some rn), (.shiftImm rm sh amt)⟩
  | .cmpShiftReg c rn rm sh rs => some ⟨.cmp, c, true, none, (some rn), (.shiftReg rm sh rs)⟩
  | .cmnImm c rn rot imm => some ⟨.cmn, c, true, none, (some rn), (.imm rot imm)⟩
  | .cmnShiftImm c rn rm sh amt => some ⟨.cmn, c, true, none, (some rn), (.shiftImm rm sh amt)⟩
  | .cmnShiftReg c rn rm sh rs => some ⟨.cmn, c, true, none, (some rn), (.shiftReg rm sh rs)⟩
  | .tstImm c rn rot imm => some ⟨.tst, c, true, none, (some rn), (.imm rot imm)⟩
  | .tstShiftImm c rn rm sh amt => some ⟨.tst, c, true, none, (some rn), (.shiftImm rm sh amt)⟩
  | .tstShiftReg c rn rm sh rs => some ⟨.tst, c, true, none, (some rn), (.shiftReg rm sh rs)⟩
  | .teqImm c rn rot imm => some ⟨.teq, c, true, none, (some rn), (.imm rot imm)⟩
  | .teqShiftImm c rn rm sh amt => some ⟨.teq, c, true, none, (some rn), (.shiftImm rm sh amt)⟩
  | .teqShiftReg c rn rm sh rs => some ⟨.teq, c, true, none, (some rn), (.shiftReg rm sh rs)⟩
  | .andImm c sf rd rn rot imm => some ⟨.and, c, sf, (some rd), (some rn), (.imm rot imm)⟩
  | .andShiftImm c sf rd rn rm sh amt => some ⟨.and, c, sf, (some rd), (some rn), (.shiftImm rm sh amt)⟩
  | .andShiftReg c sf rd rn rm sh rs => some ⟨.and, c, sf, (some rd), (some rn), (.shiftReg rm sh rs)⟩
  | .eorImm c sf rd rn rot imm => some ⟨.eor, c, sf, (some rd), (some rn), (.imm rot imm)⟩
  | .eorShiftImm c sf rd rn rm sh amt => some ⟨.eor, c, sf, (some rd), (some rn), (.shiftImm rm sh amt)⟩
  | .eorShiftReg c sf rd rn rm sh rs => some ⟨.eor, c, sf, (some rd), (some rn), (.shiftReg rm sh rs)⟩
  | .orrImm c sf rd rn rot imm => some ⟨.orr, c, sf, (some rd), (some rn), (.imm rot imm)⟩
  | .orrShiftImm c sf rd rn rm sh amt => some ⟨.orr, c, sf, (some rd), (some rn), (.shiftImm rm sh amt)⟩
  | .orrShiftReg c sf rd rn rm sh rs => some ⟨.orr, c, sf, (some rd), (some rn), (.shiftReg rm sh rs)⟩
  | .bicImm c sf rd rn rot imm => some ⟨.bic, c, sf, (some rd), (some rn), (.imm rot imm)⟩
  | .bicShiftImm c sf rd rn rm sh amt => some ⟨.bic, c, sf, (some rd), (some rn), (.shiftImm rm sh amt)⟩
  | .bicShiftReg c sf rd rn rm sh rs => some ⟨.bic, c, sf, (some rd), (some rn), (.shiftReg rm sh rs)⟩
  | _ => none

/-- What the single transfers have in common (46_load_store_single.md R265, R274). -/
structure TransferForm where
  cond : Cond
  size : Size
  signed : Bool
  forceUser : Bool
  ix : Indexing
  up : Bool
  rd : Reg
  rn : Reg
  off : Offset
deriving DecidableEq, Repr

/-- The form of a single load: the 24 rows of LDR, LDRT, LDRB, LDRBT, LDRSB, LDRH, LDRSH. -/
def loadForm? : Instr → Option TransferForm
  | .ldrImm c up wb rd rn off => some ⟨c, .word, false, false, (.ofW wb), up, rd, rn, (.imm (off.setWidth 32))⟩
  | .ldrImmPost c up rd rn off => some ⟨c, .word, false, false, .postIndexed, up, rd, rn, (.imm (off.setWidth 32))⟩
  | .ldrReg c up wb rd rn rm sh amt => some ⟨c, .word, false, false, (.ofW wb), up, rd, rn, (.reg rm sh amt)⟩
  | .ldrRegPost c up rd rn rm sh amt => some ⟨c, .word, false, false, .postIndexed, up, rd, rn, (.reg rm sh amt)⟩
  | .ldrtImm c up rd rn off => some ⟨c, .word, false, true, .postIndexed, up, rd, rn, (.imm (off.setWidth 32))⟩
  | .ldrtReg c up rd rn rm sh amt => some ⟨c, .word, false, true, .postIndexed, up, rd, rn, (.reg rm sh amt)⟩
  | .ldrbImm c up wb rd rn off => some ⟨c, .byte, false, false, (.ofW wb), up, rd, rn, (.imm (off.setWidth 32))⟩
  | .ldrbImmPost c up rd rn off => some ⟨c, .byte, false, false, .postIndexed, up, rd, rn, (.imm (off.setWidth 32))⟩
  | .ldrbReg c up wb rd rn rm sh amt => some ⟨c, .byte, false, false, (.ofW wb), up, rd, rn, (.reg rm sh amt)⟩
  | .ldrbRegPost c up rd rn rm sh amt => some ⟨c, .byte, false, false, .postIndexed, up, rd, rn, (.reg rm sh amt)⟩
  | .ldrbtImm c up rd rn off => some ⟨c, .byte, false, true, .postIndexed, up, rd, rn, (.imm (off.setWidth 32))⟩
  | .ldrbtReg c up rd rn rm sh amt => some ⟨c, .byte, false, true, .postIndexed, up, rd, rn, (.reg rm sh amt)⟩
  | .ldrsbImm c up wb rd rn off => some ⟨c, .byte, true, false, (.ofW wb), up, rd, rn, (.imm (off.setWidth 32))⟩
  | .ldrsbImmPost c up rd rn off => some ⟨c, .byte, true, false, .postIndexed, up, rd, rn, (.imm (off.setWidth 32))⟩
  | .ldrsbReg c up wb rd rn rm => some ⟨c, .byte, true, false, (.ofW wb), up, rd, rn, (.plainReg rm)⟩
  | .ldrsbRegPost c up rd rn rm => some ⟨c, .byte, true, false, .postIndexed, up, rd, rn, (.plainReg rm)⟩
  | .ldrhImm c up wb rd rn off => some ⟨c, .half, false, false, (.ofW wb), up, rd, rn, (.imm (off.setWidth 32))⟩
  | .ldrhImmPost c up rd rn off => some ⟨c, .half, false, false, .postIndexed, up, rd, rn, (.imm (off.setWidth 32))⟩
  | .ldrhReg c up wb rd rn rm => some ⟨c, .half, false, false, (.ofW wb), up, rd, rn, (.plainReg rm)⟩
  | .ldrhRegPost c up rd rn rm => some ⟨c, .half, false, false, .postIndexed, up, rd, rn, (.plainReg rm)⟩
  | .ldrshImm c up wb rd rn off => some ⟨c, .half, true, false, (.ofW wb), up, rd, rn, (.imm (off.setWidth 32))⟩
  | .ldrshImmPost c up rd rn off => some ⟨c, .half, true, false, .postIndexed, up, rd, rn, (.imm (off.setWidth 32))⟩
  | .ldrshReg c up wb rd rn rm => some ⟨c, .half, true, false, (.ofW wb), up, rd, rn, (.plainReg rm)⟩
  | .ldrshRegPost c up rd rn rm => some ⟨c, .half, true, false, .postIndexed, up, rd, rn, (.plainReg rm)⟩
  | _ => none

/-- The form of a single store: the 16 rows of STR, STRT, STRB, STRBT, STRH. -/
def storeForm? : Instr → Option TransferForm
  | .strImm c up wb rd rn off => some ⟨c, .word, false, false, (.ofW wb), up, rd, rn, (.imm (off.setWidth 32))⟩
  | .strImmPost c up rd rn off => some ⟨c, .word, false, false, .postIndexed, up, rd, rn, (.imm (off.setWidth 32))⟩
  | .strReg c up wb rd rn rm sh amt => some ⟨c, .word, false, false, (.ofW wb), up, rd, rn, (.reg rm sh amt)⟩
  | .strRegPost c up rd rn rm sh amt => some ⟨c, .word, false, false, .postIndexed, up, rd, rn, (.reg rm sh amt)⟩
  | .strtImm c up rd rn off => some ⟨c, .word, false, true, .postIndexed, up, rd, rn, (.imm (off.setWidth 32))⟩
  | .strtReg c up rd rn rm sh amt => some ⟨c, .word, false, true, .postIndexed, up, rd, rn, (.reg rm sh amt)⟩
  | .strbImm c up wb rd rn off => some ⟨c, .byte, false, false, (.ofW wb), up, rd, rn, (.imm (off.setWidth 32))⟩
  | .strbImmPost c up rd rn off => some ⟨c, .byte, false, false, .postIndexed, up, rd, rn, (.imm (off.setWidth 32))⟩
  | .strbReg c up wb rd rn rm sh amt => some ⟨c, .byte, false, false, (.ofW wb), up, rd, rn, (.reg rm sh amt)⟩
  | .strbRegPost c up rd rn rm sh amt => some ⟨c, .byte, false, false, .postIndexed, up, rd, rn, (.reg rm sh amt)⟩
  | .strbtImm c up rd rn off => some ⟨c, .byte, false, true, .postIndexed, up, rd, rn, (.imm (off.setWidth 32))⟩
  | .strbtReg c up rd rn rm sh amt => some ⟨c, .byte, false, true, .postIndexed, up, rd, rn, (.reg rm sh amt)⟩
  | .strhImm c up wb rd rn off => some ⟨c, .half, false, false, (.ofW wb), up, rd, rn, (.imm (off.setWidth 32))⟩
  | .strhImmPost c up rd rn off => some ⟨c, .half, false, false, .postIndexed, up, rd, rn, (.imm (off.setWidth 32))⟩
  | .strhReg c up wb rd rn rm => some ⟨c, .half, false, false, (.ofW wb), up, rd, rn, (.plainReg rm)⟩
  | .strhRegPost c up rd rn rm => some ⟨c, .half, false, false, .postIndexed, up, rd, rn, (.plainReg rm)⟩
  | _ => none

/-- What the block transfers have in common (47_load_store_multiple.md R306, R307): `load` for LDM, `restore` for the
form that restores the CPSR, `bank` whose registers move. -/
structure BlockForm where
  load : Bool
  restore : Bool
  bank : BlockBank
  cond : Cond
  mode : BlockMode
  wb : Bool
  rn : Reg
  list : BitVec 16
deriving DecidableEq, Repr

/-- The form of a block transfer: LDM (1), LDM (3), LDM (2), STM (1), STM (2). The User-bank forms have no write-back
(47_load_store_multiple.md R310, R312). -/
def blockForm? : Instr → Option BlockForm
  | .ldm1 c mode wb rn list => some ⟨true, false, .current, c, mode, wb, rn, list⟩
  | .ldm3 c mode wb rn list => some ⟨true, true, .current, c, mode, wb, rn, list⟩
  | .ldm2 c mode rn list => some ⟨true, false, .userBank, c, mode, false, rn, list⟩
  | .stm1 c mode wb rn list => some ⟨false, false, .current, c, mode, wb, rn, list⟩
  | .stm2 c mode rn list => some ⟨false, false, .userBank, c, mode, false, rn, list⟩
  | _ => none

/-- A mode that has an SPSR (10_state.md R42, R43). -/
abbrev HasSpsr (m : Mode) : Prop := m ≠ .user ∧ m ≠ .system

/-- The privilege the access presents (20_memory.md R80). -/
def TransferForm.user (f : TransferForm) (s : State) : Bool := f.forceUser || userMode s

/-- The address of the access (46_load_store_single.md R268 to R270). -/
def TransferForm.address (f : TransferForm) (s : State) : Word := (transferAddress f.ix f.up f.rn f.off s).1

/-- The base's new value (46_load_store_single.md R269, R270). -/
def TransferForm.newBase (f : TransferForm) (s : State) : Word := (transferAddress f.ix f.up f.rn f.off s).2

/-- A row of 46_load_store_single.md R273 other than the three about `Rd` = R15 applies. -/
abbrev TransferForm.Restricted (f : TransferForm) : Prop :=
  f.off.register? = some .pc ∨
    (f.ix.writesBack = true ∧ (f.rn = .pc ∨ f.rd = f.rn ∨ f.off.register? = some f.rn))

/-- A row about `Rd` = R15 of 46_load_store_single.md R273 that allows it: LDR, and STR once `PC_STORE_OFFSET` is set. -/
abbrev TransferForm.MayNamePc (f : TransferForm) : Prop := f.size = .word ∧ f.forceUser = false

/-- The registers after write-back (46_load_store_single.md R274). -/
def TransferForm.regsAfter (f : TransferForm) (s : State) : RegFile :=
  match f.ix.writesBack, f.rn with
  | true, .r n => s.regs.set (physReg s.cpsr.m n) (f.newBase s)
  | _, _ => s.regs

/-! ## Values the rules give -/

/-- The exact unsigned value of an arithmetic instruction before it is cut to 32 bits (42_arithmetic.md R196). -/
def exactUnsigned (op : AluOp) (a b : Word) (c : Bool) : Int :=
  match op with
  | .add | .cmn => a.toNat + b.toNat
  | .adc => a.toNat + b.toNat + c.toNat
  | .sub | .cmp => a.toNat - b.toNat
  | .sbc => a.toNat - b.toNat - (1 - c.toNat)
  | .rsb => b.toNat - a.toNat
  | .rsc => b.toNat - a.toNat - (1 - c.toNat)
  | _ => 0

/-- The exact signed value of an arithmetic instruction (42_arithmetic.md R196). -/
def exactSigned (op : AluOp) (a b : Word) (c : Bool) : Int :=
  match op with
  | .add | .cmn => a.toInt + b.toInt
  | .adc => a.toInt + b.toInt + c.toNat
  | .sub | .cmp => a.toInt - b.toInt
  | .sbc => a.toInt - b.toInt - (1 - c.toNat)
  | .rsb => b.toInt - a.toInt
  | .rsc => b.toInt - a.toInt - (1 - c.toNat)
  | _ => 0

/-- The instructions whose C flag is a carry (42_arithmetic.md R196); for the other arithmetic ones it is the
complement of a borrow. -/
def isAddition (op : AluOp) : Bool := op == .add || op == .adc || op == .cmn

/-- The arithmetic instructions (40_conditions_operand2.md R161). -/
def isArithmetic (op : AluOp) : Bool :=
  isAddition op || op == .sub || op == .sbc || op == .rsb || op == .rsc || op == .cmp

/-- The result of a data-processing instruction on its first operand `a` and second operand `b`: the "Action" column of
41_move_psr.md R170, R171, 42_arithmetic.md R190 to R195 and 44_compare_logical.md R230 to R237. -/
def dpValue (op : AluOp) (a b : Word) (c : Bool) : Word :=
  match op with
  | .and | .tst => a &&& b
  | .eor | .teq => a ^^^ b
  | .orr => a ||| b
  | .bic => a &&& ~~~b
  | .mov => b
  | .mvn => ~~~b
  | _ => BitVec.ofInt 32 (exactUnsigned op a b c)

/-- The status register after the flags are set (40_conditions_operand2.md R160, R161): `sco` is the shifter's carry. -/
def dpFlags (op : AluOp) (a b : Word) (sco : Bool) (p : Psr Mode) : Psr Mode :=
  { p with
    n := (dpValue op a b p.c).getLsbD 31
    z := decide (dpValue op a b p.c = 0#32)
    c := if isArithmetic op then
           decide ((if isAddition op then 2 ^ 32 else 0) ≤ exactUnsigned op a b p.c)
         else sco
    v := if isArithmetic op then
           decide (exactSigned op a b p.c < -2 ^ 31 ∨ 2 ^ 31 ≤ exactSigned op a b p.c)
         else p.v }

/-- The little-endian word in the four bytes from `a` (20_memory.md R71). -/
def wordAt (m : Memory) (a : Nat) : Word :=
  readByte m (a + 3) ++ readByte m (a + 2) ++ readByte m (a + 1) ++ readByte m a

/-- `w` is the status register `p` as a word: `N:Z:C:V:0:I:F:T:M` (10_state.md R39, R45). -/
def IsPsrWord (p : Spsr) (w : Word) : Prop :=
  w.getLsbD 31 = p.n ∧ w.getLsbD 30 = p.z ∧ w.getLsbD 29 = p.c ∧ w.getLsbD 28 = p.v ∧
    (∀ k, 8 ≤ k → k < 28 → w.getLsbD k = false) ∧
    w.getLsbD 7 = p.i ∧ w.getLsbD 6 = p.f ∧ w.getLsbD 5 = p.t ∧ w.extractLsb' 0 5 = p.m

/-- What a load gives from the bytes at `a`: zero-extended, or sign-extended for the signed forms
(46_load_store_single.md R275 to R281). -/
def loadValue (sz : Size) (signed : Bool) (m : Memory) (a : Nat) : Word :=
  match sz, signed with
  | .byte, false => (readByte m a).setWidth 32
  | .byte, true => (readByte m a).signExtend 32
  | .half, false => (readByte m (a + 1) ++ readByte m a).setWidth 32
  | .half, true => (readByte m (a + 1) ++ readByte m a).signExtend 32
  | .word, _ => wordAt m a

/-- Memory `m'` is `m` but for the `n` bytes from `a`, which hold the low bytes of `v`, the least significant at `a`
(20_memory.md R73). -/
def Stored (m m' : Memory) (a n : Nat) (v : Word) : Prop :=
  (∀ k, k < n → readByte m' (a + k) = v.extractLsb' (8 * k) 8) ∧
    ∀ b, (b < a ∨ a + n ≤ b) → readByte m' b = readByte m b

/-- How many registers numbered below `k` a list names: the place of R`k` in a block transfer
(47_load_store_multiple.md R301). -/
def slotOf (list : BitVec 16) (k : Nat) : Nat := (List.range k).countP fun j => list.getLsbD j

/-- The physical register a block transfer moves for R`k` (47_load_store_multiple.md R306). -/
def blockReg (bank : BlockBank) (m : Mode) (k : Fin 15) : PhysReg :=
  match bank with
  | .current => physReg m k
  | .userBank => .user k

/-- The word an STM stores for R`k`; R15 only where `PC_STORE_OFFSET` is set (47_load_store_multiple.md R305, R306). -/
def blockWord (bank : BlockBank) (s : State) (k : Nat) : Word :=
  if h : k < 15 then s.regs.get (blockReg bank s.cpsr.m ⟨k, h⟩) else (storedPc s).getD 0#32

/-- The address, as a number, of R`k` in a block transfer from base `b` (47_load_store_multiple.md R301). -/
def slotAddress (mode : BlockMode) (b : Word) (list : BitVec 16) (k : Nat) : Nat :=
  (blockStart mode b.toNat (slotOf list 16)).toNat + 4 * slotOf list k

/-- The restrictions of a block transfer that its base and list meet: a register listed, an aligned base, no wrap
(47_load_store_multiple.md R301, R305). -/
abbrev BlockOk (mode : BlockMode) (b : Word) (list : BitVec 16) : Prop :=
  list ≠ 0#16 ∧ b.toNat % 4 = 0 ∧ 0 ≤ blockStart mode b.toNat (slotOf list 16) ∧
    blockStart mode b.toNat (slotOf list 16) + 4 * slotOf list 16 ≤ 2 ^ 32

/-- The base after write-back (47_load_store_multiple.md R301, R302). -/
def blockBase (mode : BlockMode) (b : Word) (list : BitVec 16) : Word :=
  match mode with
  | .ia | .ib => b + BitVec.ofNat 32 (4 * slotOf list 16)
  | .da | .db => b - BitVec.ofNat 32 (4 * slotOf list 16)

/-- Every listed word can be read (47_load_store_multiple.md R306). -/
abbrev AllReadable (s : State) (mode : BlockMode) (b : Word) (list : BitVec 16) : Prop :=
  ∀ k, k < 16 → list.getLsbD k = true →
    CanRead s (BitVec.ofNat 32 (slotAddress mode b list k)) 4 (userMode s)

/-- Every listed word can be written (47_load_store_multiple.md R306). -/
abbrev AllWritable (s : State) (mode : BlockMode) (b : Word) (list : BitVec 16) : Prop :=
  ∀ k, k < 16 → list.getLsbD k = true →
    CanWrite s (BitVec.ofNat 32 (slotAddress mode b list k)) 4 (userMode s)

/-- Memory `m'` is `m` but for the listed words, where R`k` left `value k` (47_load_store_multiple.md R306). -/
def BlockStored (m m' : Memory) (mode : BlockMode) (b : Word) (list : BitVec 16) (value : Nat → Word) : Prop :=
  (∀ k, k < 16 → list.getLsbD k = true → wordAt m' (slotAddress mode b list k) = value k) ∧
    ∀ a, (a < slotAddress mode b list 0 ∨ slotAddress mode b list 16 ≤ a) → readByte m' a = readByte m a

/-! ## Written lines (30_encoding.md section 7) -/

/-- A shift of `x` as it is written, `c` the C flag (30_encoding.md R122; 40_conditions_operand2.md R145 to R149,
R154). -/
def shiftWritten (sh : WrittenShift) (x : Word) (c : Bool) : Word :=
  match sh with
  | .none => x
  | .lsl n => x <<< n
  | .lsr n => x >>> n
  | .asr n => x.sshiftRight n
  | .ror n => x.rotateRight n
  | .rrx => BitVec.ofBool c ++ x.extractLsb' 1 31

/-- The amounts a shift can be written with (30_encoding.md R122). -/
def ShiftWritable : WrittenShift → Prop
  | .none | .rrx => True
  | .lsl n => n ≤ 31
  | .lsr n | .asr n => 1 ≤ n ∧ n ≤ 32
  | .ror n => 1 ≤ n ∧ n ≤ 31

/-- An eight-bit value rotated right by an even number of bits gives the constant (30_encoding.md R121). -/
def ConstantWritable (v : Word) : Prop := ∃ rot imm, immediate32 rot imm = v

/-- The written `<Oprnd2>` has fields (30_encoding.md R121, R122). -/
def OperandWritable : WrittenOperand2 → Prop
  | .constant v => ConstantWritable v
  | .register _ sh => ShiftWritable sh
  | .byRegister _ _ _ => True

/-- The operand `o` is the written one: its value in every state is the written value, and a shift by a register is that
form (40_conditions_operand2.md R143). -/
def OperandMeans (w : WrittenOperand2) (o : Operand2) : Prop :=
  match w with
  | .constant v => ∀ s, (shifterOperand o s).1 = v
  | .register rm sh => ∀ s, (shifterOperand o s).1 = shiftWritten sh (readReg s rm) s.cpsr.c
  | .byRegister rm sh rs => o = .shiftReg rm sh rs

/-- CMP, CMN, TST and TEQ: no `Rd`, always the flags (44_compare_logical.md R238). -/
def isCompare (op : AluOp) : Bool := op == .cmp || op == .cmn || op == .tst || op == .teq

/-- MOV and MVN: no `Rn` (40_conditions_operand2.md R157). -/
def isMove (op : AluOp) : Bool := op == .mov || op == .mvn

/-- The size of a written offset in a state (30_encoding.md R124). -/
def offsetWritten (o : WrittenOffset) (s : State) : Word :=
  match o with
  | .absent => 0#32
  | .imm _ n => BitVec.ofNat 32 n
  | .reg _ rm sh => shiftWritten sh (readReg s rm) s.cpsr.c

/-- Is the written offset subtracted (30_encoding.md R124)? -/
def minusWritten : WrittenOffset → Bool
  | .absent => false
  | .imm minus _ => minus
  | .reg minus _ _ => minus

/-- The instruction is a single transfer with these properties (46_load_store_single.md R266 to R272). -/
def TransferMeans (load : Bool) (size : Size) (signed forceUser : Bool) (c : Cond) (rd : Reg) (a : WrittenAddress)
    (ix : Indexing) (i : Instr) : Prop :=
  ∃ f : TransferForm, (if load then loadForm? i else storeForm? i) = some f ∧ f.cond = c ∧ f.size = size ∧
    f.signed = signed ∧ f.forceUser = forceUser ∧ f.ix = ix ∧ f.rd = rd ∧ f.rn = a.rn ∧
    f.up = !minusWritten a.offset ∧ ∀ s, offsetValue f.off s = offsetWritten a.offset s

/-- The byte distance from `pc + 8` to a label, modulo 2^32 and read as signed (30_encoding.md R123; log 24). -/
def labelDistance (pc label : Word) : Int := (label - (pc + 8#32)).toInt

/-- What the instruction of a line at address `pc` is: the operation, condition, registers, flag and addressing of the
line, and operands with the written values (30_encoding.md R121 to R125, R132 to R135). -/
def LineMeans (pc : Word) (line : Line) (i : Instr) : Prop :=
  match line with
  | .dataProcessing op c sf rd rn w =>
    ∃ f : DpForm, dpForm? i = some f ∧ f.op = op ∧ f.cond = c ∧ f.sf = (sf || isCompare op) ∧
      f.rd = (if isCompare op then none else some rd) ∧ f.rn = (if isMove op then none else some rn) ∧
      OperandMeans w f.o
  | .msrRegister spsr c fields rm =>
    ∃ mask : BitVec 4, i = (if spsr then .msrSpsrReg c mask rm else .msrCpsrReg c mask rm) ∧
      (mask.getLsbD 0 = true ↔ .c ∈ fields) ∧ (mask.getLsbD 1 = true ↔ .x ∈ fields) ∧
      (mask.getLsbD 2 = true ↔ .s ∈ fields) ∧ (mask.getLsbD 3 = true ↔ .f ∈ fields)
  | .msrImmediate spsr c v =>
    ∃ rot imm, i = (if spsr then .msrSpsrImm c 0b1000#4 rot imm else .msrCpsrImm c 0b1000#4 rot imm) ∧
      immediate32 rot imm = v
  | .branch link c label =>
    ∃ imm : BitVec 24, i = (if link then .bl c imm else .b c imm) ∧
      BitVec.ofInt 32 (pc.toNat + 8 + 4 * imm.toInt) = label
  | .mode1 k c rd a =>
    TransferMeans (k == .ldr || k == .ldrb) (if k = .ldr ∨ k = .str then .word else .byte) false false c rd a a.ix i
  | .mode2 k c rd a =>
    TransferMeans (k == .ldrt || k == .ldrbt) (if k = .ldrt ∨ k = .strt then .word else .byte) false true c rd a
      .postIndexed i
  | .mode3 k c rd a =>
    TransferMeans (k != .strh) (if k = .ldrsb then .byte else .half) (k == .ldrsb || k == .ldrsh) false c rd a a.ix i
  | .loadMultiple c m wb rn regs caret =>
    ∃ f : BlockForm, blockForm? i = some f ∧ f.load = true ∧ f.cond = c ∧ f.mode = m.ofLoad ∧ f.wb = wb ∧ f.rn = rn ∧
      (∀ r, f.list.getLsbD (regNumber r) = true ↔ r ∈ regs) ∧ (f.restore = true ↔ caret = true ∧ .pc ∈ regs) ∧
      (f.bank = .userBank ↔ caret = true ∧ .pc ∉ regs)
  | .storeMultiple c m wb rn regs caret =>
    ∃ f : BlockForm, blockForm? i = some f ∧ f.load = false ∧ f.cond = c ∧ f.mode = m.ofStore ∧ f.wb = wb ∧ f.rn = rn ∧
      (∀ r, f.list.getLsbD (regNumber r) = true ↔ r ∈ regs) ∧ (f.bank = .userBank ↔ caret = true)
  | .plain j => i = j

/-- Which lines the spec allows at address `pc` (30_encoding.md R121 to R124; 41_move_psr.md R169;
46_load_store_single.md R266, R271, R272; 47_load_store_multiple.md R300). -/
def LineWritable (pc : Word) : Line → Prop
  | .dataProcessing _ _ _ _ _ w => OperandWritable w
  | .msrRegister _ _ fields _ => fields ≠ []
  | .msrImmediate _ _ v => ConstantWritable v
  | .branch _ _ label =>
    wordAligned label = true ∧ -33554432 ≤ labelDistance pc label ∧ labelDistance pc label ≤ 33554428
  | .mode1 _ _ _ a =>
    match a.offset with
    | .absent => a.ix = .plain
    | .imm _ n => n ≤ 4095
    | .reg _ _ sh => ShiftWritable sh
  | .mode2 _ _ _ a =>
    match a.offset with
    | .absent => a.ix = .plain
    | .imm _ n => a.ix = .postIndexed ∧ n ≤ 4095
    | .reg _ _ sh => a.ix = .postIndexed ∧ ShiftWritable sh
  | .mode3 _ _ _ a =>
    match a.offset with
    | .absent => a.ix = .plain
    | .imm _ n => n ≤ 255
    | .reg _ _ sh => sh = .none
  | .loadMultiple _ _ wb _ regs caret => caret = true → .pc ∉ regs → wb = false
  | .storeMultiple _ _ wb _ _ caret => caret = true → wb = false
  | .plain i => isPlain i = true

end Sys2Proof.Safety
end

