-- ==== Sys2Proof/Certificates/Slice0/Obligations.lean ====
section
/-! DEFINITION. The statements for the provers. Each says what an instruction or the machine does, from the rules of the
spec it names; an equation `exec i s = .next t` with `t` written out is also the frame: every field `t` does not name is
as it was. -/

section Statements

open Sys2Proof Sys2Proof.Machine Sys2Proof.Safety

/-! ## Encoding (30_encoding.md) -/

/-- Decoding an encoded well-formed instruction gives it back, every operand at every value (30_encoding.md R100 to
R125): no bit of an encoding is dropped. -/
def Obligations.DecodeOfEncode : Prop :=
  ∀ i : Instr, WellFormed i = true → decode (encode i) = .ok i

/-- A word the decoder accepts is the encoding of the well-formed instruction it reads (30_encoding.md R101): every bit
of a decoded word is fixed by its row or carried by an operand. -/
def Obligations.EncodeOfDecode : Prop :=
  ∀ (w : Word) (i : Instr), decodeWord w = .ok i → WellFormed i = true ∧ encodeWord i = w

/-- No word meets two rows of the table (30_encoding.md R101 step 3). -/
def Obligations.RowsAreDisjoint : Prop :=
  ∀ w : Word, table.Pairwise fun r q => ¬ (r.meets w = true ∧ q.meets w = true)

/-- A few words of the spec's examples decode to the instructions they stand for, one of every family. -/
def Obligations.DecodeOfSampleWords : Prop :=
  decodeWord 0xE3A00001#32 = .ok (.movImm .al false (.r 0) 0#4 1#8) ∧
  decodeWord 0xE0810002#32 = .ok (.addShiftImm .al false (.r 0) (.r 1) (.r 2) .lsl 0#5) ∧
  decodeWord 0xE3500000#32 = .ok (.cmpImm .al (.r 0) 0#4 0#8) ∧
  decodeWord 0xE3C1000F#32 = .ok (.bicImm .al false (.r 0) (.r 1) 0#4 15#8) ∧
  decodeWord 0xE169F001#32 = .ok (.msrSpsrReg .al 9#4 (.r 1)) ∧
  decodeWord 0xE0203291#32 = .ok (.mla .al false (.r 0) (.r 1) (.r 2) (.r 3)) ∧
  decodeWord 0xE0C10392#32 = .ok (.smull .al false (.r 0) (.r 1) (.r 2) (.r 3)) ∧
  decodeWord 0x1AFFFFFD#32 = .ok (.b .ne 0xFFFFFD#24) ∧
  decodeWord 0xE7910102#32 = .ok (.ldrReg .al true false (.r 0) (.r 1) (.r 2) .lsl 2#5) ∧
  decodeWord 0xE15320F2#32 = .ok (.ldrshImm .al false false (.r 2) (.r 3) 2#8) ∧
  decodeWord 0xE6610002#32 = .ok (.strbtReg .al false (.r 0) (.r 1) (.r 2) .lsl 0#5) ∧
  decodeWord 0xE8FD9FFF#32 = .ok (.ldm3 .al .ia true (.r 13) 0x9FFF#16) ∧
  decodeWord 0xE8C06000#32 = .ok (.stm2 .al .ia (.r 0) 0x6000#16) ∧
  decodeWord 0xE1420091#32 = .ok (.swpb .al (.r 0) (.r 1) (.r 2)) ∧
  decodeWord 0xEF000011#32 = .ok (.swi .al 0x11#24) ∧
  decodeWord 0xE6000010#32 = .ok (.undefinedSpace .al 0#20 0#4)

/-- A fetched word with condition field 1111, or of no row, is refused by name, whatever the flags (30_encoding.md R126,
R129). -/
def Obligations.WordsOfNoInstructionAreRefused : Prop :=
  ∀ (s : State) (w : Word), Fetches s w →
    (w.extractLsb' 28 4 = 0b1111#4 → step s = .refused .condNV) ∧
    (w.extractLsb' 28 4 ≠ 0b1111#4 → (∀ r ∈ table, r.meets w = false) →
      step s = .refused .unallocatedEncoding)

/-- What a written line stands for (30_encoding.md R121 to R125, R132, R134; 41_move_psr.md R169, R176). A constant gets
the fields that give it back, the smallest rotation first, and is refused exactly where no fields do. A B or BL line at
the pc goes to its label, BL leaving its link. Every line, at a word-aligned address, assembles exactly where the spec
allows it, to an instruction with the operation, condition, registers, addressing and operand values written; that
instruction is well formed and has a mnemonic. That the distance to a label is taken modulo 2^32 and read as signed is
the model's reading (log 24). -/
def Obligations.AssembledLinesMeanWhatIsWritten : Prop :=
  (∀ (v : Word) (rot : BitVec 4) (imm : BitVec 8), assembleImmediate v = some (rot, imm) →
    immediate32 rot imm = v ∧ ∀ rot' imm', immediate32 rot' imm' = v → rot.toNat ≤ rot'.toNat) ∧
  (∀ (v : Word), assembleImmediate v = none → ∀ rot imm, immediate32 rot imm ≠ v) ∧
  (∀ (s : State) (c : Cond) (label : Word), Passes c s → wordAligned s.pc = true → wordAligned label = true →
    -33554432 ≤ labelDistance s.pc label → labelDistance s.pc label ≤ 33554428 →
      (∃ i, assemble s.pc (.branch false c label) = some i ∧ exec i s = .next { s with pc := label }) ∧
      (HasNext s → ∃ i, assemble s.pc (.branch true c label) = some i ∧ exec i s = .next { s with
        regs := s.regs.set (physReg s.cpsr.m 14) (s.pc + 4#32)
        pc := label })) ∧
  (∀ (pc : Word) (line : Line), wordAligned pc = true →
    ((∃ i, assemble pc line = some i) ↔ LineWritable pc line) ∧
    ∀ i, assemble pc line = some i → LineMeans pc line i) ∧
  ∀ (pc : Word) (line : Line) (i : Instr), assemble pc line = some i →
    WellFormed i = true ∧ (mnemonicOf i).isSome = true

/-! ## The step (60_exceptions.md R371) -/

/-- When the word fetched decodes to an instruction, the step executes it: the boundary's sample of the interrupt lines
is taken off and the hazard bit cleared first (60_exceptions.md R371; 70_reset_and_hazards.md R415). -/
def Obligations.StepRunsDecodedInstruction : Prop :=
  ∀ (s : State) (w : Word) (i : Instr), Fetches s w → decodeWord w = .ok i →
    (s.afterUserTransfer = true → namesBanked s.cpsr.m i = false) →
      step s = exec i { s with inputs := s.inputs.tail, afterUserTransfer := false }

/-- With no interrupt to take, the run ends at `END_PC` (00_scope.md R18) and a set T bit is refused (10_state.md R41). -/
def Obligations.StepEndsOrRefusesBeforeFetch : Prop :=
  ∀ s : State, pendingInterrupt (currentLines s.inputs) s.cpsr = none →
    (s.platform.endPc = some s.pc → step s = .fault .endOfRun) ∧
    (s.platform.endPc ≠ some s.pc → s.cpsr.t = true → step s = .refused .thumbState)

/-- IRQ and FIQ at an instruction boundary (60_exceptions.md R366, R367): FIQ before IRQ, each only while its mask bit is
clear, and a masked line changes nothing. FIQ mode has its own R8 to R14. -/
def Obligations.InterruptEntry : Prop :=
  (∀ (s : State) (l : LineSample) (rest : List LineSample), s.inputs = l :: rest → HasNext s →
    (l.fiq = true → s.cpsr.f = false →
      step s = .next { s with
        regs := s.regs.set (.r14 .fiq) (s.pc + 4#32)
        spsr := s.spsr.set .fiq s.cpsr.save
        cpsr := { s.cpsr with i := true, f := true, t := false, m := .exc .fiq }
        pc := 0x0000001C#32
        afterUserTransfer := false
        inputs := rest }) ∧
    ((l.fiq = false ∨ s.cpsr.f = true) → l.irq = true → s.cpsr.i = false →
      step s = .next { s with
        regs := s.regs.set (.r14 .irq) (s.pc + 4#32)
        spsr := s.spsr.set .irq s.cpsr.save
        cpsr := { s.cpsr with i := true, t := false, m := .exc .irq }
        pc := 0x00000018#32
        afterUserTransfer := false
        inputs := rest }) ∧
    ((l.fiq = false ∨ s.cpsr.f = true) → (l.irq = false ∨ s.cpsr.i = true) →
      step s = step { s with inputs := { irq := false, fiq := false } :: rest })) ∧
  ∀ (n : Fin 15) (k : Fin 15), 8 ≤ n.val → physReg (.exc .fiq) n ≠ .user k

/-- Prefetch Abort (60_exceptions.md R358, R364): taken when the instruction would be executed, whatever lies at the pc,
with every other field as it was. -/
def Obligations.PrefetchAbortEntry : Prop :=
  ∀ s : State, ReachesFetch s → memAborts s.platform s.pc.toNat 4 .fetch (userMode s) = true → HasNext s →
    step s = .next { s with
      regs := s.regs.set (.r14 .abt) (s.pc + 4#32)
      spsr := s.spsr.set .abt s.cpsr.save
      cpsr := { s.cpsr with i := true, t := false, m := .exc .abt }
      pc := 0x0000000C#32
      afterUserTransfer := false
      inputs := s.inputs.tail }

/-- The hazard after a User-bank transfer (70_reset_and_hazards.md R415): while the bit is set, an instruction that names
a register banked in the current mode is refused, whatever its condition; a step leaves the bit set only by an LDM (2)
or STM (2) whose condition passed; and these set it unless they abort. -/
def Obligations.HazardAfterUserTransfer : Prop :=
  (∀ (s : State) (w : Word) (i : Instr) (n : Fin 15), Fetches s w → decodeWord w = .ok i →
    s.afterUserTransfer = true → Reg.r n ∈ namedRegs i → (∀ k, physReg s.cpsr.m n ≠ .user k) →
      step s = .refused .bankedAccessAfterUserTransfer) ∧
  (∀ s t : State, step s = .next t → t.afterUserTransfer = true →
    ∃ (w : Word) (i : Instr) (f : BlockForm), Fetches s w ∧ decodeWord w = .ok i ∧ blockForm? i = some f ∧
      f.bank = .userBank ∧ Passes f.cond s) ∧
  ∀ (i : Instr) (f : BlockForm) (s t : State), blockForm? i = some f → f.bank = .userBank → Passes f.cond s →
    exec i s = .next t → t.afterUserTransfer = true ∨ ∃ u, t = enterException .dataAbort u

/-! ## Conditions (40_conditions_operand2.md R140 to R142) -/

/-- An instruction whose condition fails only advances the pc (40_conditions_operand2.md R142); at the last word of the
address space that advance is refused, the model's reading of 10_state.md R38 (log 21). Its own fetch may still abort,
whatever the word. -/
def Obligations.FailedConditionOnlyAdvances : Prop :=
  (∀ (i : Instr) (s : State), ¬ Passes (condOf i) s →
    exec i s = if s.pc.toNat + 4 < 2 ^ 32 then .next { s with pc := s.pc + 4#32 } else .refused .pcWrap) ∧
  ∀ s : State, ReachesFetch s → memAborts s.platform s.pc.toNat 4 .fetch (userMode s) = true → HasNext s →
    step s = .next (enterException .prefetchAbort { s with inputs := s.inputs.tail })

/-- The fifteen conditions on the flags before the instruction (40_conditions_operand2.md R141). -/
def Obligations.ConditionTable : Prop :=
  ∀ s : State,
    (Passes .eq s ↔ s.cpsr.z = true) ∧ (Passes .ne s ↔ s.cpsr.z = false) ∧
    (Passes .cs s ↔ s.cpsr.c = true) ∧ (Passes .cc s ↔ s.cpsr.c = false) ∧
    (Passes .mi s ↔ s.cpsr.n = true) ∧ (Passes .pl s ↔ s.cpsr.n = false) ∧
    (Passes .vs s ↔ s.cpsr.v = true) ∧ (Passes .vc s ↔ s.cpsr.v = false) ∧
    (Passes .hi s ↔ s.cpsr.c = true ∧ s.cpsr.z = false) ∧ (Passes .ls s ↔ s.cpsr.c = false ∨ s.cpsr.z = true) ∧
    (Passes .ge s ↔ s.cpsr.n = s.cpsr.v) ∧ (Passes .lt s ↔ s.cpsr.n ≠ s.cpsr.v) ∧
    (Passes .gt s ↔ s.cpsr.z = false ∧ s.cpsr.n = s.cpsr.v) ∧
    (Passes .le s ↔ s.cpsr.z = true ∨ s.cpsr.n ≠ s.cpsr.v) ∧
    Passes .al s

/-- After CMP the conditions read as comparisons of its operands (40_conditions_operand2.md R140, 44_compare_logical.md
R230): EQ and NE; unsigned for CS, CC, HI, LS; signed for GE, LT, GT, LE; MI and PL by the sign of the difference, VS
and VC by whether the exact signed difference leaves 32 bits. -/
def Obligations.ConditionsAfterCompare : Prop :=
  ∀ (i : Instr) (f : DpForm) (s t : State), dpForm? i = some f → f.op = .cmp → Passes f.cond s →
    exec i s = .next t →
      let a := firstOperand f.rn s
      let b := (shifterOperand f.o s).1
      (Passes .eq t ↔ a = b) ∧ (Passes .ne t ↔ a ≠ b) ∧
      (Passes .cs t ↔ b.toNat ≤ a.toNat) ∧ (Passes .cc t ↔ a.toNat < b.toNat) ∧
      (Passes .hi t ↔ b.toNat < a.toNat) ∧ (Passes .ls t ↔ a.toNat ≤ b.toNat) ∧
      (Passes .ge t ↔ b.toInt ≤ a.toInt) ∧ (Passes .lt t ↔ a.toInt < b.toInt) ∧
      (Passes .gt t ↔ b.toInt < a.toInt) ∧ (Passes .le t ↔ a.toInt ≤ b.toInt) ∧
      (Passes .mi t ↔ (a - b).toInt < 0) ∧ (Passes .pl t ↔ 0 ≤ (a - b).toInt) ∧
      (Passes .vs t ↔ a.toInt - b.toInt < -2 ^ 31 ∨ 2 ^ 31 ≤ a.toInt - b.toInt) ∧
      (Passes .vc t ↔ -2 ^ 31 ≤ a.toInt - b.toInt ∧ a.toInt - b.toInt < 2 ^ 31)

/-! ## Operand 2 (40_conditions_operand2.md R144 to R154) -/

/-- Operand 2 as an immediate or a register shifted by an immediate, bit by bit, with its carry-out
(40_conditions_operand2.md R144 to R149 and R154): LSR and ASR by a field of 0 shift by 32, ROR by 0 is RRX. -/
def Obligations.ShifterOperandImmediate : Prop :=
  ∀ s : State,
    (∀ (rot : BitVec 4) (imm : BitVec 8),
      let r := shifterOperand (.imm rot imm) s
      (∀ k, k < 32 → r.1.getLsbD k = (imm.setWidth 32).getLsbD ((k + 2 * rot.toNat) % 32)) ∧
        r.2 = if rot = 0#4 then s.cpsr.c else r.1.getLsbD 31) ∧
    (∀ (rm : Reg) (amt : BitVec 5),
      let x := readReg s rm
      let r := shifterOperand (.shiftImm rm .lsl amt) s
      (∀ k, k < 32 → r.1.getLsbD k = (decide (amt.toNat ≤ k) && x.getLsbD (k - amt.toNat))) ∧
        r.2 = if amt = 0#5 then s.cpsr.c else x.getLsbD (32 - amt.toNat)) ∧
    (∀ (rm : Reg) (amt : BitVec 5),
      let x := readReg s rm
      let n := if amt = 0#5 then 32 else amt.toNat
      let r := shifterOperand (.shiftImm rm .lsr amt) s
      (∀ k, k < 32 → r.1.getLsbD k = x.getLsbD (k + n)) ∧ r.2 = x.getLsbD (n - 1)) ∧
    (∀ (rm : Reg) (amt : BitVec 5),
      let x := readReg s rm
      let n := if amt = 0#5 then 32 else amt.toNat
      let r := shifterOperand (.shiftImm rm .asr amt) s
      (∀ k, k < 32 → r.1.getLsbD k = x.getLsbD (min (k + n) 31)) ∧ r.2 = x.getLsbD (n - 1)) ∧
    (∀ (rm : Reg) (amt : BitVec 5), amt ≠ 0#5 →
      let x := readReg s rm
      let r := shifterOperand (.shiftImm rm .ror amt) s
      (∀ k, k < 32 → r.1.getLsbD k = x.getLsbD ((k + amt.toNat) % 32)) ∧ r.2 = x.getLsbD (amt.toNat - 1)) ∧
    ∀ rm : Reg,
      let x := readReg s rm
      let r := shifterOperand (.shiftImm rm .ror 0#5) s
      (∀ k, k < 31 → r.1.getLsbD k = x.getLsbD (k + 1)) ∧ r.1.getLsbD 31 = s.cpsr.c ∧ r.2 = x.getLsbD 0

/-- Operand 2 as a register shifted by the low byte `n` of a register, bit by bit, with its carry-out, for every `n` from
0 to 255 (40_conditions_operand2.md R150 to R153). -/
def Obligations.ShifterOperandByRegister : Prop :=
  ∀ (s : State) (rm rs : Reg),
    let x := readReg s rm
    let n := (readReg s rs).toNat % 256
    let r := fun sh => shifterOperand (.shiftReg rm sh rs) s
    (∀ k, k < 32 → (r .lsl).1.getLsbD k = (decide (n ≤ k) && x.getLsbD (k - n))) ∧
    ((r .lsl).2 = if n = 0 then s.cpsr.c else decide (n ≤ 32) && x.getLsbD (32 - n)) ∧
    (∀ k, k < 32 → (r .lsr).1.getLsbD k = x.getLsbD (k + n)) ∧
    ((r .lsr).2 = if n = 0 then s.cpsr.c else x.getLsbD (n - 1)) ∧
    (∀ k, k < 32 → (r .asr).1.getLsbD k = x.getLsbD (min (k + n) 31)) ∧
    ((r .asr).2 = if n = 0 then s.cpsr.c else x.getLsbD (min (n - 1) 31)) ∧
    (∀ k, k < 32 → (r .ror).1.getLsbD k = x.getLsbD ((k + n) % 32)) ∧
    ((r .ror).2 = if n = 0 then s.cpsr.c else x.getLsbD ((n + 31) % 32))

/-- R15 in operand 2 (40_conditions_operand2.md R155): with a register-specified shift it is refused wherever it stands;
in the other forms it reads as the instruction's address plus 8. -/
def Obligations.R15InOperand2 : Prop :=
  (∀ (i : Instr) (f : DpForm) (rm rs : Reg) (sh : Shift) (s : State), dpForm? i = some f →
    f.o = .shiftReg rm sh rs → Passes f.cond s →
    (f.rd = some .pc ∨ f.rn = some .pc ∨ rm = .pc ∨ rs = .pc) →
      exec i s = .refused .r15WithRegisterShift) ∧
  ∀ s : State, readReg s .pc = s.pc + 8#32 ∧ firstOperand (some .pc) s = s.pc + 8#32 ∧
    (shifterOperand (.shiftImm .pc .lsl 0#5) s).1 = s.pc + 8#32

/-! ## Data processing (40_conditions_operand2.md R157 to R162) -/

/-- The shared adder and its eight callers (42_arithmetic.md R196): result, carry and overflow; a subtraction's carry is
the complement of the borrow, and it overflows when the operands' signs differ and the result's sign is not the
minuend's. -/
def Obligations.AddWithCarryAndItsCalls : Prop :=
  (∀ (a b : Word) (cin : Bool),
    let r := addWithCarry a b cin
    r.value.toNat = (a.toNat + b.toNat + cin.toNat) % 2 ^ 32 ∧
      (r.c = true ↔ 2 ^ 32 ≤ a.toNat + b.toNat + cin.toNat) ∧
      (r.v = true ↔ a.toInt + b.toInt + cin.toNat ≠ r.value.toInt)) ∧
  (∀ (a b : Word) (sco c v : Bool),
    alu .add a b sco c v = addWithCarry a b false ∧ alu .cmn a b sco c v = addWithCarry a b false ∧
      alu .adc a b sco c v = addWithCarry a b c ∧
      alu .sub a b sco c v = addWithCarry a (~~~b) true ∧ alu .cmp a b sco c v = addWithCarry a (~~~b) true ∧
      alu .sbc a b sco c v = addWithCarry a (~~~b) c ∧
      alu .rsb a b sco c v = addWithCarry b (~~~a) true ∧
      alu .rsc a b sco c v = addWithCarry b (~~~a) c) ∧
  ∀ (a b : Word) (c : Bool),
    let r := addWithCarry a (~~~b) c
    r.value = a - b - BitVec.ofNat 32 (1 - c.toNat) ∧
      (r.c = true ↔ b.toNat + (1 - c.toNat) ≤ a.toNat) ∧
      (c = true → (r.v = true ↔ a.msb ≠ b.msb ∧ r.value.msb ≠ a.msb))

/-- ADD, ADC, SUB, SBC, RSB and RSC into a general register, every operand form: the result and, with `S`, the four flags
(42_arithmetic.md R190 to R195, 40_conditions_operand2.md R161, R162). Nothing else changes but the pc. -/
def Obligations.ArithmeticWritesRegister : Prop :=
  ∀ (i : Instr) (f : DpForm) (n : Fin 15) (s : State), dpForm? i = some f → isArithmetic f.op = true →
    f.rd = some (.r n) → Passes f.cond s → f.o.forbidsPc (f.rd.toList ++ f.rn.toList) = false → HasNext s →
      let a := firstOperand f.rn s
      let b := shifterOperand f.o s
      exec i s = .next { s with
        regs := s.regs.set (physReg s.cpsr.m n) (dpValue f.op a b.1 s.cpsr.c)
        cpsr := if f.sf then dpFlags f.op a b.1 b.2 s.cpsr else s.cpsr
        pc := s.pc + 4#32 }

/-- MOV, MVN, AND, EOR, ORR and BIC into a general register, every operand form: the result and, with `S`, N, Z and C, C
from the shifter and V unchanged (41_move_psr.md R170, R171, 44_compare_logical.md R234 to R237,
40_conditions_operand2.md R160, R162). Nothing else changes but the pc. -/
def Obligations.LogicalAndMoveWriteRegister : Prop :=
  ∀ (i : Instr) (f : DpForm) (n : Fin 15) (s : State), dpForm? i = some f → isArithmetic f.op = false →
    f.rd = some (.r n) → Passes f.cond s → f.o.forbidsPc (f.rd.toList ++ f.rn.toList) = false → HasNext s →
      let a := firstOperand f.rn s
      let b := shifterOperand f.o s
      exec i s = .next { s with
        regs := s.regs.set (physReg s.cpsr.m n) (dpValue f.op a b.1 s.cpsr.c)
        cpsr := if f.sf then dpFlags f.op a b.1 b.2 s.cpsr else s.cpsr
        pc := s.pc + 4#32 }

/-- CMP, CMN, TST and TEQ, every operand form, set the flags and write no register (44_compare_logical.md R230 to R233,
R238). Nothing else changes but the pc. -/
def Obligations.CompareSetsFlags : Prop :=
  ∀ (i : Instr) (f : DpForm) (s : State), dpForm? i = some f → f.rd = none → Passes f.cond s →
    f.o.forbidsPc f.rn.toList = false → HasNext s →
      let b := shifterOperand f.o s
      exec i s = .next { s with
        cpsr := dpFlags f.op (firstOperand f.rn s) b.1 b.2 s.cpsr
        pc := s.pc + 4#32 }

/-- A data-processing instruction with `Rd` = R15 and no `S` is a jump to its result, which must be word-aligned; no flag
changes (40_conditions_operand2.md R158). -/
def Obligations.WriteToR15Jumps : Prop :=
  ∀ (i : Instr) (f : DpForm) (s : State), dpForm? i = some f → f.rd = some .pc → f.sf = false → Passes f.cond s →
    f.o.forbidsPc (f.rd.toList ++ f.rn.toList) = false →
      let v := dpValue f.op (firstOperand f.rn s) (shifterOperand f.o s).1 s.cpsr.c
      (v.extractLsb' 0 2 = 0#2 → exec i s = .next { s with pc := v }) ∧
      (v.extractLsb' 0 2 ≠ 0#2 → exec i s = .refused .unalignedPcWrite)

/-- A data-processing instruction with `Rd` = R15 and `S` returns from an exception: the CPSR is replaced by the SPSR of
the current mode, the pc by the result; the four refusals in the rule's order (40_conditions_operand2.md R159). -/
def Obligations.WriteToR15WithSReturns : Prop :=
  ∀ (i : Instr) (f : DpForm) (s : State), dpForm? i = some f → f.rd = some .pc → f.sf = true → Passes f.cond s →
    f.o.forbidsPc (f.rd.toList ++ f.rn.toList) = false →
      let v := dpValue f.op (firstOperand f.rn s) (shifterOperand f.o s).1 s.cpsr.c
      (¬ HasSpsr s.cpsr.m → exec i s = .refused .noSpsr) ∧
      ∀ e, s.cpsr.m = .exc e →
        let p := s.spsr.get e
        (p.t = true → exec i s = .refused .thumbState) ∧
        (p.t = false → Mode.ofBits p.m = none → exec i s = .refused .illegalMode) ∧
        ∀ m, p.t = false → Mode.ofBits p.m = some m →
          (v.extractLsb' 0 2 ≠ 0#2 → exec i s = .refused .unalignedPcWrite) ∧
          (v.extractLsb' 0 2 = 0#2 → exec i s = .next { s with
            cpsr := { n := p.n, z := p.z, c := p.c, v := p.v, i := p.i, f := p.f, t := p.t, m := m }
            pc := v })

/-! ## Status registers (41_move_psr.md) -/

/-- MRS puts the CPSR, or the SPSR of the current mode, in a general register as `N:Z:C:V:0:I:F:T:M`; nothing else changes
but the pc (41_move_psr.md R172, R173; 10_state.md R39, R45). -/
def Obligations.MrsReadsStatus : Prop :=
  ∀ (c : Cond) (n : Fin 15) (s : State), Passes c s → HasNext s →
    (∃ w, IsPsrWord s.cpsr.save w ∧ exec (.mrsCpsr c (.r n)) s = .next { s with
      regs := s.regs.set (physReg s.cpsr.m n) w
      pc := s.pc + 4#32 }) ∧
    ∀ e, s.cpsr.m = .exc e → ∃ w, IsPsrWord (s.spsr.get e) w ∧ exec (.mrsSpsr c (.r n)) s = .next { s with
      regs := s.regs.set (physReg s.cpsr.m n) w
      pc := s.pc + 4#32 }

/-- MSR writes the fields its mask selects (41_move_psr.md R168): of the CPSR, in User mode the flags byte alone, T never
and M only to a mode; of the SPSR of the current mode, any value. -/
def Obligations.MsrWritesSelectedFields : Prop :=
  (∀ (i : Instr) (c : Cond) (mask : BitVec 4) (x : Word) (s : State),
    ((∃ n, i = .msrCpsrReg c mask (.r n) ∧ x = readGeneral s n) ∨
      ∃ rot imm, i = .msrCpsrImm c mask rot imm ∧ x = immediate32 rot imm) →
    Passes c s → HasNext s →
      let flags := mask.getLsbD 3
      let ctl := mask.getLsbD 0 && !userMode s
      (ctl = true → x.getLsbD 5 ≠ s.cpsr.t → exec i s = .refused .msrAltersT) ∧
      (ctl = true → x.getLsbD 5 = s.cpsr.t → Mode.ofBits (x.extractLsb' 0 5) = none →
        exec i s = .refused .illegalMode) ∧
      ∀ m, (ctl = true → x.getLsbD 5 = s.cpsr.t ∧ Mode.ofBits (x.extractLsb' 0 5) = some m) →
        (ctl = false → m = s.cpsr.m) →
          exec i s = .next { s with
            cpsr := { n := if flags then x.getLsbD 31 else s.cpsr.n
                      z := if flags then x.getLsbD 30 else s.cpsr.z
                      c := if flags then x.getLsbD 29 else s.cpsr.c
                      v := if flags then x.getLsbD 28 else s.cpsr.v
                      i := if ctl then x.getLsbD 7 else s.cpsr.i
                      f := if ctl then x.getLsbD 6 else s.cpsr.f
                      t := s.cpsr.t
                      m := m }
            pc := s.pc + 4#32 }) ∧
  ∀ (i : Instr) (c : Cond) (mask : BitVec 4) (x : Word) (s : State),
    ((∃ n, i = .msrSpsrReg c mask (.r n) ∧ x = readGeneral s n) ∨
      ∃ rot imm, i = .msrSpsrImm c mask rot imm ∧ x = immediate32 rot imm) →
    Passes c s → HasNext s →
      (¬ HasSpsr s.cpsr.m → exec i s = .refused .noSpsr) ∧
      ∀ e, s.cpsr.m = .exc e →
        let p := s.spsr.get e
        let flags := mask.getLsbD 3
        let ctl := mask.getLsbD 0
        exec i s = .next { s with
          spsr := s.spsr.set e
            { n := if flags then x.getLsbD 31 else p.n
              z := if flags then x.getLsbD 30 else p.z
              c := if flags then x.getLsbD 29 else p.c
              v := if flags then x.getLsbD 28 else p.v
              i := if ctl then x.getLsbD 7 else p.i
              f := if ctl then x.getLsbD 6 else p.f
              t := if ctl then x.getLsbD 5 else p.t
              m := if ctl then x.extractLsb' 0 5 else p.m }
          pc := s.pc + 4#32 }

/-- MRS and MSR refuse R15, and MRS of an SPSR is refused in User and System mode (41_move_psr.md R172 to R175). -/
def Obligations.StatusAccessRefusals : Prop :=
  ∀ (c : Cond) (mask : BitVec 4) (s : State), Passes c s →
    exec (.mrsCpsr c .pc) s = .refused .r15Operand ∧ exec (.mrsSpsr c .pc) s = .refused .r15Operand ∧
    exec (.msrCpsrReg c mask .pc) s = .refused .r15Operand ∧ exec (.msrSpsrReg c mask .pc) s = .refused .r15Operand ∧
    ∀ n, ¬ HasSpsr s.cpsr.m → exec (.mrsSpsr c (.r n)) s = .refused .noSpsr

/-- The flags are written only by the instructions 10_state.md R40 lists: data processing with `S` (a compare among
them), a multiply with `S`, MSR of the CPSR's flags byte, and LDM (3); no load, store, branch, swap or trap writes one. -/
def Obligations.FlagWriters : Prop :=
  ∀ (i : Instr) (s t : State), exec i s = .next t →
    (t.cpsr.n ≠ s.cpsr.n ∨ t.cpsr.z ≠ s.cpsr.z ∨ t.cpsr.c ≠ s.cpsr.c ∨ t.cpsr.v ≠ s.cpsr.v) →
      (∃ f, dpForm? i = some f ∧ f.sf = true) ∨
      (∃ c rd rm rs, i = .mul c true rd rm rs) ∨ (∃ c rd rm rs rn, i = .mla c true rd rm rs rn) ∨
      (∃ c dl dh rm rs, i = .umull c true dl dh rm rs ∨ i = .umlal c true dl dh rm rs ∨
        i = .smull c true dl dh rm rs ∨ i = .smlal c true dl dh rm rs) ∨
      (∃ c mask rm, i = .msrCpsrReg c mask rm ∧ mask.getLsbD 3 = true) ∨
      (∃ c mask rot imm, i = .msrCpsrImm c mask rot imm ∧ mask.getLsbD 3 = true) ∨
      ∃ c mode wb rn list, i = .ldm3 c mode wb rn list

/-! ## Multiplies (43_multiply.md) -/

/-- MUL and MLA: the low 32 bits of the product, or of the product and the addend; with `S` N and Z from the result, V
unchanged, C any bit (43_multiply.md R210, R211, R217). Nothing else changes but the pc and the model's count of draws. -/
def Obligations.MultiplyWritesRegister : Prop :=
  ∀ (c : Cond) (sf : Bool) (d m k n : Fin 15) (s : State), d ≠ m → Passes c s → HasNext s →
    let after := fun (r : Word) (bit : Bool) (draws : Nat) => { s with
      regs := s.regs.set (physReg s.cpsr.m d) r
      cpsr := if sf then { s.cpsr with n := r.getLsbD 31, z := decide (r = 0#32), c := bit } else s.cpsr
      pc := s.pc + 4#32
      draws := draws }
    let product := (readGeneral s m).toNat * (readGeneral s k).toNat
    (∃ bit draws, (sf = false → draws = s.draws) ∧
      exec (.mul c sf (.r d) (.r m) (.r k)) s = .next (after (BitVec.ofNat 32 product) bit draws)) ∧
    ∃ bit draws, (sf = false → draws = s.draws) ∧
      exec (.mla c sf (.r d) (.r m) (.r k) (.r n)) s =
        .next (after (BitVec.ofNat 32 (product + (readGeneral s n).toNat)) bit draws)

/-- UMULL, UMLAL, SMULL and SMLAL: the exact product of the operands read as unsigned or signed, plus `RdHi:RdLo` for the
accumulating forms, modulo 2^64; with `S` N is bit 63, Z says the 64 bits are zero, C and V are any bits
(43_multiply.md R212 to R215, R217, R218). Nothing else changes but the pc and the model's count of draws. -/
def Obligations.LongMultiplyWritesPair : Prop :=
  ∀ (c : Cond) (sf : Bool) (lo hi m k : Fin 15) (s : State), hi ≠ lo → hi ≠ m → lo ≠ m → Passes c s → HasNext s →
    let unsigned : Int := (readGeneral s m).toNat * (readGeneral s k).toNat
    let signed : Int := (readGeneral s m).toInt * (readGeneral s k).toInt
    let acc : Int := (readGeneral s hi).toNat * 2 ^ 32 + (readGeneral s lo).toNat
    let ends := fun (i : Instr) (exact : Int) =>
      let r := BitVec.ofInt 64 exact
      ∃ (bitC bitV : Bool) (draws : Nat), (sf = false → draws = s.draws) ∧ exec i s = .next { s with
        regs := (s.regs.set (physReg s.cpsr.m hi) (r.extractLsb' 32 32)).set (physReg s.cpsr.m lo) (r.extractLsb' 0 32)
        cpsr := if sf then { s.cpsr with n := r.getLsbD 63, z := decide (r = 0#64), c := bitC, v := bitV } else s.cpsr
        pc := s.pc + 4#32
        draws := draws }
    ends (.umull c sf (.r lo) (.r hi) (.r m) (.r k)) unsigned ∧
    ends (.umlal c sf (.r lo) (.r hi) (.r m) (.r k)) (unsigned + acc) ∧
    ends (.smull c sf (.r lo) (.r hi) (.r m) (.r k)) signed ∧
    ends (.smlal c sf (.r lo) (.r hi) (.r m) (.r k)) (signed + acc)

/-- The operand restrictions of the six multiplies (43_multiply.md R216): R15 anywhere, `Rd` = `Rm` in the short forms,
`RdHi`, `RdLo`, `Rm` not three registers in the long forms; each is refused when the condition passes. Where R15 and
equal registers both apply, that R15 is named first is the model's reading (log 19). -/
def Obligations.MultiplyRestrictions : Prop :=
  ∀ (c : Cond) (sf : Bool) (s : State), Passes c s →
    (∀ rd rm rs rn : Reg,
      ((rd = .pc ∨ rm = .pc ∨ rs = .pc) → exec (.mul c sf rd rm rs) s = .refused .r15Operand) ∧
      ((rd = .pc ∨ rm = .pc ∨ rs = .pc ∨ rn = .pc) → exec (.mla c sf rd rm rs rn) s = .refused .r15Operand)) ∧
    (∀ d k n : Fin 15, exec (.mul c sf (.r d) (.r d) (.r k)) s = .refused .mulRdEqualsRm ∧
      exec (.mla c sf (.r d) (.r d) (.r k) (.r n)) s = .refused .mulRdEqualsRm) ∧
    (∀ lo hi rm rs : Reg, ∀ i ∈ [Instr.umull c sf lo hi rm rs, .umlal c sf lo hi rm rs, .smull c sf lo hi rm rs,
        .smlal c sf lo hi rm rs],
      ((lo = .pc ∨ hi = .pc ∨ rm = .pc ∨ rs = .pc) → exec i s = .refused .r15Operand) ∧
      (lo ≠ .pc → hi ≠ .pc → rm ≠ .pc → rs ≠ .pc → (hi = lo ∨ hi = rm ∨ lo = rm) →
        exec i s = .refused .mulLongOverlap))

/-! ## Branches (45_branch.md) -/

/-- B and BL go to `pc + 8` plus four times the signed offset, modulo 2^32; BL leaves `pc + 4` in R14 of the current mode
and is refused where that would pass the top of the address space (45_branch.md R250, R251). From a word-aligned pc the
target is word-aligned. -/
def Obligations.BranchAndBranchWithLink : Prop :=
  ∀ (c : Cond) (imm : BitVec 24) (s : State), Passes c s →
    let target := BitVec.ofInt 32 (s.pc.toNat + 8 + 4 * imm.toInt)
    exec (.b c imm) s = .next { s with pc := target } ∧
    (HasNext s → exec (.bl c imm) s = .next { s with
      regs := s.regs.set (physReg s.cpsr.m 14) (s.pc + 4#32)
      pc := target }) ∧
    (¬ HasNext s → exec (.bl c imm) s = .refused .pcWrap) ∧
    (wordAligned s.pc = true → wordAligned target = true)

/-- BX goes to its register's value with T clear where bits [1:0] are 00; bit 0 set asks for Thumb state and is refused,
as is bit 1 (45_branch.md R252). -/
def Obligations.BranchExchange : Prop :=
  ∀ (c : Cond) (rn : Reg) (s : State), Passes c s →
    let v := readReg s rn
    (v.extractLsb' 0 2 = 0#2 → exec (.bx c rn) s = .next { s with pc := v, cpsr := { s.cpsr with t := false } }) ∧
    (v.getLsbD 0 = true → exec (.bx c rn) s = .refused .thumbState) ∧
    (v.getLsbD 0 = false → v.getLsbD 1 = true → exec (.bx c rn) s = .refused .unalignedPcWrite)

/-! ## Memory (20_memory.md) -/

/-- One read and one write of memory: alignment, presence, `CODE_REGION` and `MemAbort` in the rules' order, the
little-endian value read, the bytes written and no other (20_memory.md R72, R73). -/
def Obligations.MemoryReadAndWrite : Prop :=
  ∀ (s : State) (addr v : Word) (sz : Size) (user : Bool),
    (addr.toNat % sz.bytes ≠ 0 → memRead s addr sz user = .refused .unalignedAccess ∧
      memWrite s addr sz v user = .refused .unalignedAccess) ∧
    (addr.toNat % sz.bytes = 0 → (∃ k < sz.bytes, ∃ r ∈ s.platform.absent, r.holds (addr.toNat + k) = true) →
      memRead s addr sz user = .refused .undefinedMemory ∧ memWrite s addr sz v user = .refused .undefinedMemory) ∧
    (Reachable s addr sz.bytes → (∃ k < sz.bytes, ∃ r ∈ s.platform.codeRegion, r.holds (addr.toNat + k) = true) →
      memWrite s addr sz v user = .refused .storeToCode) ∧
    (Reachable s addr sz.bytes → memAborts s.platform addr.toNat sz.bytes .read user = true →
      memRead s addr sz user = .abort) ∧
    (Reachable s addr sz.bytes → ¬ InCode s addr.toNat sz.bytes →
      memAborts s.platform addr.toNat sz.bytes .write user = true → memWrite s addr sz v user = .abort) ∧
    (CanRead s addr sz.bytes user → ∃ w, memRead s addr sz user = .done w ∧
      w.toNat = ((List.range sz.bytes).map fun k => (readByte s.mem (addr.toNat + k)).toNat * 2 ^ (8 * k)).sum) ∧
    (CanWrite s addr sz.bytes user → ∃ m', memWrite s addr sz v user = .done { s with mem := m' } ∧
      Stored s.mem m' addr.toNat sz.bytes v)

/-- No step changes a parameter of the platform, and none changes a byte of `CODE_REGION`: every fetch from it returns the
launch contents (20_memory.md R85; 00_scope.md R17, R19). -/
def Obligations.CodeRegionNeverChanges : Prop :=
  (∀ s t : State, step s = .next t → t.platform = s.platform) ∧
  ∀ (s t : State) (a : Nat), step s = .next t → InCode s a 1 → readByte t.mem a = readByte s.mem a

/-! ## Single transfers (46_load_store_single.md) -/

/-- The offset and the addresses of a single transfer (46_load_store_single.md R267 to R270): a register offset is the
immediate-shift form of operand 2 without its carry; offset and pre-indexed forms access the moved base, post-indexed
forms the base itself. -/
def Obligations.TransferAddresses : Prop :=
  ∀ (s : State) (up : Bool) (rn rm : Reg) (o : Offset) (v : Word) (sh : Shift) (amt : BitVec 5),
    offsetValue (.imm v) s = v ∧
    offsetValue (.reg rm sh amt) s = (shifterOperand (.shiftImm rm sh amt) s).1 ∧
    let moved := if up then readReg s rn + offsetValue o s else readReg s rn - offsetValue o s
    transferAddress .plain up rn o s = (moved, moved) ∧ transferAddress .preIndexed up rn o s = (moved, moved) ∧
      transferAddress .postIndexed up rn o s = (readReg s rn, moved)

/-- The 24 forms of LDR, LDRT, LDRB, LDRBT, LDRSB, LDRH and LDRSH into a general register: the base written back where the
form says, then the extended value; memory, flags and every other register stay (46_load_store_single.md R274 to R281). -/
def Obligations.LoadsWriteRegister : Prop :=
  ∀ (i : Instr) (f : TransferForm) (n : Fin 15) (s : State), loadForm? i = some f → f.rd = .r n → ¬ f.Restricted →
    Passes f.cond s → CanRead s (f.address s) f.size.bytes (f.user s) → HasNext s →
      exec i s = .next { s with
        regs := (f.regsAfter s).set (physReg s.cpsr.m n) (loadValue f.size f.signed s.mem (f.address s).toNat)
        pc := s.pc + 4#32 }

/-- LDR with `Rd` = R15 is a branch to the word loaded, refused unless it is word-aligned; T does not change
(46_load_store_single.md R275). -/
def Obligations.LoadToR15Jumps : Prop :=
  ∀ (i : Instr) (f : TransferForm) (s : State), loadForm? i = some f → f.rd = .pc → f.MayNamePc → ¬ f.Restricted →
    Passes f.cond s → CanRead s (f.address s) 4 (f.user s) →
      let v := wordAt s.mem (f.address s).toNat
      (wordAligned v = true → exec i s = .next { s with regs := f.regsAfter s, pc := v }) ∧
      (wordAligned v = false → exec i s = .refused .unalignedPcWrite)

/-- The 16 forms of STR, STRT, STRB, STRBT and STRH: the low bytes of the register go to the address the form gives, the
base is written back where it says, and every other byte, register and flag stays. R15, where `PC_STORE_OFFSET` is set,
stores `pc` plus that offset (46_load_store_single.md R274, R282 to R286). -/
def Obligations.StoresWriteMemory : Prop :=
  ∀ (i : Instr) (f : TransferForm) (v : Word) (s : State), storeForm? i = some f → ¬ f.Restricted →
    ((∃ n, f.rd = .r n ∧ v = readGeneral s n) ∨
      (f.rd = .pc ∧ f.MayNamePc ∧
        ((s.platform.pcStoreOffset = some .plus8 ∧ v = s.pc + 8#32) ∨
          (s.platform.pcStoreOffset = some .plus12 ∧ v = s.pc + 12#32)))) →
    Passes f.cond s → CanWrite s (f.address s) f.size.bytes (f.user s) → HasNext s →
      ∃ m', Stored s.mem m' (f.address s).toNat f.size.bytes v ∧
        exec i s = .next { s with regs := f.regsAfter s, mem := m', pc := s.pc + 4#32 }

/-- The refusals of 46_load_store_single.md R273 for the 40 single transfers. Where several rows of the table apply, the
order is the model's reading (log 19). -/
def Obligations.TransferRestrictions : Prop :=
  ∀ (i : Instr) (f : TransferForm) (s : State), (loadForm? i = some f ∨ storeForm? i = some f) → Passes f.cond s →
    (f.off.register? = some .pc → exec i s = .refused .r15Operand) ∧
    (f.off.register? ≠ some .pc → f.ix.writesBack = true → f.rn = .pc → exec i s = .refused .writebackToR15) ∧
    (f.off.register? ≠ some .pc → f.ix.writesBack = true → f.rn ≠ .pc →
      (f.rd = f.rn ∨ f.off.register? = some f.rn) → exec i s = .refused .writebackOverlap) ∧
    (¬ f.Restricted → f.rd = .pc → ¬ f.MayNamePc → exec i s = .refused .r15Operand) ∧
    (¬ f.Restricted → f.rd = .pc → f.MayNamePc → storeForm? i = some f → s.platform.pcStoreOffset = none →
      exec i s = .refused .storeOfR15)

/-- A misaligned halfword or word access is refused, a misaligned base of LDM or STM and a misaligned address of SWP
included (20_memory.md R75; 46_load_store_single.md R288). Where other rows of 47_load_store_multiple.md R305 apply to
the block transfer too (write-back overlap, a store of R15, no SPSR, the User bank in User mode), that the misaligned
base is named first is the model's reading (log 19). -/
def Obligations.MisalignedAccessIsRefused : Prop :=
  (∀ (i : Instr) (f : TransferForm) (s : State), (loadForm? i = some f ∨ storeForm? i = some f) → Passes f.cond s →
    ¬ f.Restricted → (f.rd = .pc → f.MayNamePc ∧ (storeForm? i = some f → s.platform.pcStoreOffset ≠ none)) →
    (f.address s).toNat % f.size.bytes ≠ 0 → exec i s = .refused .unalignedAccess) ∧
  (∀ (i : Instr) (f : BlockForm) (n : Fin 15) (s : State), blockForm? i = some f → Passes f.cond s → f.rn = .r n →
    f.list ≠ 0#16 → (readGeneral s n).toNat % 4 ≠ 0 → exec i s = .refused .unalignedAccess) ∧
  ∀ (c : Cond) (d m n : Fin 15) (s : State), Passes c s → n ≠ d → n ≠ m → (readGeneral s n).toNat % 4 ≠ 0 →
    exec (.swp c (.r d) (.r m) (.r n)) s = .refused .unalignedAccess

/-- A data abort of a single transfer (46_load_store_single.md R287): the Data Abort exception is taken with memory and
`Rd` as they were, the base as it was (`ABORT_MODEL` restored) or written back (updated). -/
def Obligations.DataAbortOfTransfer : Prop :=
  ∀ (i : Instr) (f : TransferForm) (s : State), Passes f.cond s → ¬ f.Restricted → (f.rd = .pc → f.MayNamePc) →
    Reachable s (f.address s) f.size.bytes → s.pc.toNat + 8 < 2 ^ 32 →
      let after := if s.platform.abortModel = .updated then { s with regs := f.regsAfter s } else s
      (loadForm? i = some f →
        memAborts s.platform (f.address s).toNat f.size.bytes .read (f.user s) = true →
          exec i s = .next (enterException .dataAbort after)) ∧
      (storeForm? i = some f → (f.rd = .pc → s.platform.pcStoreOffset ≠ none) →
        ¬ InCode s (f.address s).toNat f.size.bytes →
        memAborts s.platform (f.address s).toNat f.size.bytes .write (f.user s) = true →
          exec i s = .next (enterException .dataAbort after))

/-! ## Swaps (48_swap.md) -/

/-- SWP and SWPB: the old value of the word or byte at `Rn` goes to `Rd`, zero-extended, and `Rm` as it was before goes to
memory; every other byte, register and flag stays (48_swap.md R330, R331). -/
def Obligations.SwapExchanges : Prop :=
  ∀ (c : Cond) (d m n : Fin 15) (s : State), Passes c s → n ≠ d → n ≠ m → HasNext s →
    let ends := fun (i : Instr) (sz : Size) =>
      CanRead s (readGeneral s n) sz.bytes (userMode s) → CanWrite s (readGeneral s n) sz.bytes (userMode s) →
        ∃ m', Stored s.mem m' (readGeneral s n).toNat sz.bytes (readGeneral s m) ∧ exec i s = .next { s with
          regs := s.regs.set (physReg s.cpsr.m d) (loadValue sz false s.mem (readGeneral s n).toNat)
          mem := m'
          pc := s.pc + 4#32 }
    ends (.swp c (.r d) (.r m) (.r n)) .word ∧ ends (.swpb c (.r d) (.r m) (.r n)) .byte

/-- SWP and SWPB refuse R15 and a base that is `Rd` or `Rm`; an abort of their read or of their write takes the Data Abort
exception and changes nothing else (48_swap.md R330, R331). -/
def Obligations.SwapRestrictionsAndAborts : Prop :=
  ∀ (c : Cond) (s : State), Passes c s →
    (∀ rd rm rn : Reg, (rd = .pc ∨ rm = .pc ∨ rn = .pc) →
      exec (.swp c rd rm rn) s = .refused .r15Operand ∧ exec (.swpb c rd rm rn) s = .refused .r15Operand) ∧
    ∀ d m n : Fin 15,
      ((n = d ∨ n = m) → exec (.swp c (.r d) (.r m) (.r n)) s = .refused .swapBaseOverlap ∧
        exec (.swpb c (.r d) (.r m) (.r n)) s = .refused .swapBaseOverlap) ∧
      (n ≠ d → n ≠ m → s.pc.toNat + 8 < 2 ^ 32 →
        let aborts := fun (sz : Size) =>
          Reachable s (readGeneral s n) sz.bytes ∧
          (memAborts s.platform (readGeneral s n).toNat sz.bytes .read (userMode s) = true ∨
            (¬ InCode s (readGeneral s n).toNat sz.bytes ∧
              memAborts s.platform (readGeneral s n).toNat sz.bytes .write (userMode s) = true))
        (aborts .word → exec (.swp c (.r d) (.r m) (.r n)) s = .next (enterException .dataAbort s)) ∧
        (aborts .byte → exec (.swpb c (.r d) (.r m) (.r n)) s = .next (enterException .dataAbort s)))

/-! ## Block transfers (47_load_store_multiple.md) -/

/-- LDM (1): each listed register gets the word at its place, ascending from the start address; the base is written back
only with `!`, and keeps a loaded value without it; R15 is a jump, refused unless its word is word-aligned; every other
register, all memory and all flags stay (47_load_store_multiple.md R301, R302, R306, R308). -/
def Obligations.LoadMultiple : Prop :=
  ∀ (c : Cond) (mode : BlockMode) (wb : Bool) (n : Fin 15) (list : BitVec 16) (s : State),
    let b := readGeneral s n
    let v := wordAt s.mem (slotAddress mode b list 15)
    Passes c s → BlockOk mode b list → (wb = true → list.getLsbD n.val = false) → AllReadable s mode b list →
      (list.getLsbD 15 = true → wordAligned v = false →
        exec (.ldm1 c mode wb (.r n) list) s = .refused .unalignedPcWrite) ∧
      ((list.getLsbD 15 = true → wordAligned v = true) → (list.getLsbD 15 = false → HasNext s) →
        ∃ regs', exec (.ldm1 c mode wb (.r n) list) s = .next { s with
            regs := regs'
            pc := if list.getLsbD 15 then v else s.pc + 4#32 } ∧
          (∀ k : Fin 15, list.getLsbD k.val = true →
            regs'.get (physReg s.cpsr.m k) = wordAt s.mem (slotAddress mode b list k.val)) ∧
          (list.getLsbD n.val = false →
            regs'.get (physReg s.cpsr.m n) = if wb then blockBase mode b list else b) ∧
          ∀ p, (∀ k : Fin 15, (list.getLsbD k.val = true ∨ k = n) → p ≠ physReg s.cpsr.m k) →
            regs'.get p = s.regs.get p)

/-- LDM (3): as LDM (1) into the registers of the mode it runs in, and then the CPSR is replaced by that mode's SPSR and
the pc by the word loaded for R15; an SPSR with T set, an SPSR with an illegal mode and a word that is not word-aligned
are refused, in that order (47_load_store_multiple.md R306, R309). -/
def Obligations.LoadMultipleRestoresCpsr : Prop :=
  ∀ (c : Cond) (mode : BlockMode) (wb : Bool) (n : Fin 15) (list : BitVec 16) (s : State) (e : ExcMode),
    let b := readGeneral s n
    let v := wordAt s.mem (slotAddress mode b list 15)
    let p := s.spsr.get e
    Passes c s → BlockOk mode b list → (wb = true → list.getLsbD n.val = false) → AllReadable s mode b list →
    list.getLsbD 15 = true → s.cpsr.m = .exc e →
      (p.t = true → exec (.ldm3 c mode wb (.r n) list) s = .refused .thumbState) ∧
      (p.t = false → Mode.ofBits p.m = none → exec (.ldm3 c mode wb (.r n) list) s = .refused .illegalMode) ∧
      ∀ m, p.t = false → Mode.ofBits p.m = some m →
        (wordAligned v = false → exec (.ldm3 c mode wb (.r n) list) s = .refused .unalignedPcWrite) ∧
        (wordAligned v = true →
          ∃ regs', exec (.ldm3 c mode wb (.r n) list) s = .next { s with
              regs := regs'
              cpsr := { n := p.n, z := p.z, c := p.c, v := p.v, i := p.i, f := p.f, t := p.t, m := m }
              pc := v } ∧
            (∀ k : Fin 15, list.getLsbD k.val = true →
              regs'.get (physReg s.cpsr.m k) = wordAt s.mem (slotAddress mode b list k.val)) ∧
            (list.getLsbD n.val = false →
              regs'.get (physReg s.cpsr.m n) = if wb then blockBase mode b list else b) ∧
            ∀ q, (∀ k : Fin 15, (list.getLsbD k.val = true ∨ k = n) → q ≠ physReg s.cpsr.m k) →
              regs'.get q = s.regs.get q)

/-- LDM (2), in a mode with an SPSR: the listed registers of the User bank are loaded, the base is the current mode's and is
not written back, and the hazard bit is set (47_load_store_multiple.md R306, R310; 10_state.md R34). -/
def Obligations.LoadMultipleUserBank : Prop :=
  ∀ (c : Cond) (mode : BlockMode) (n : Fin 15) (list : BitVec 16) (s : State),
    let b := readGeneral s n
    Passes c s → HasSpsr s.cpsr.m → BlockOk mode b list → AllReadable s mode b list → list.getLsbD 15 = false →
    HasNext s →
      ∃ regs', exec (.ldm2 c mode (.r n) list) s = .next { s with
          regs := regs', afterUserTransfer := true, pc := s.pc + 4#32 } ∧
        (∀ k : Fin 15, list.getLsbD k.val = true →
          regs'.get (.user k) = wordAt s.mem (slotAddress mode b list k.val)) ∧
        ∀ p, (∀ k : Fin 15, list.getLsbD k.val = true → p ≠ .user k) → regs'.get p = s.regs.get p

/-- STM (1): each listed register goes to its place in memory, the base with its original value, R15 (where
`PC_STORE_OFFSET` is set) as `pc` plus that offset; the base is then written back with `!`; every other byte, register
and flag stays (47_load_store_multiple.md R301, R302, R305, R306, R311). -/
def Obligations.StoreMultiple : Prop :=
  ∀ (c : Cond) (mode : BlockMode) (wb : Bool) (n : Fin 15) (list : BitVec 16) (s : State),
    let b := readGeneral s n
    Passes c s → BlockOk mode b list → (wb = true → list.getLsbD n.val = true → slotOf list n.val = 0) →
    (list.getLsbD 15 = true → s.platform.pcStoreOffset ≠ none) → AllWritable s mode b list → HasNext s →
      ∃ m', BlockStored s.mem m' mode b list (blockWord .current s) ∧
        exec (.stm1 c mode wb (.r n) list) s = .next { s with
          regs := if wb then s.regs.set (physReg s.cpsr.m n) (blockBase mode b list) else s.regs
          mem := m'
          pc := s.pc + 4#32 }

/-- STM (2), in a mode with an SPSR: the listed registers of the User bank are stored, the base is the current mode's, no
register is written, and the hazard bit is set (47_load_store_multiple.md R306, R312; 10_state.md R34). -/
def Obligations.StoreMultipleUserBank : Prop :=
  ∀ (c : Cond) (mode : BlockMode) (n : Fin 15) (list : BitVec 16) (s : State),
    let b := readGeneral s n
    Passes c s → HasSpsr s.cpsr.m → BlockOk mode b list →
    (list.getLsbD 15 = true → s.platform.pcStoreOffset ≠ none) → AllWritable s mode b list → HasNext s →
      ∃ m', BlockStored s.mem m' mode b list (blockWord .userBank s) ∧
        exec (.stm2 c mode (.r n) list) s = .next { s with
          mem := m', afterUserTransfer := true, pc := s.pc + 4#32 }

/-- A data abort at the `k`-th register of a block transfer (47_load_store_multiple.md R313): of an LDM, R15 and the CPSR
are not written, a register not listed keeps its value, a listed one holds any value; of an STM, exactly the words below
are written; in both the base is as it was, or the written-back value where `ABORT_MODEL` is updated and `W` = 1. -/
def Obligations.DataAbortInBlock : Prop :=
  ∀ (i : Instr) (f : BlockForm) (n : Fin 15) (k : Nat) (s : State),
    let b := readGeneral s n
    let addr := fun j => BitVec.ofNat 32 (slotAddress f.mode b f.list j)
    let baseMoves := s.platform.abortModel = .updated ∧ f.wb = true
    blockForm? i = some f → f.rn = .r n → Passes f.cond s → BlockOk f.mode b f.list →
    ((f.restore = true ∨ f.bank = .userBank) → HasSpsr s.cpsr.m) → k < 16 → f.list.getLsbD k = true →
    Reachable s (addr k) 4 → s.pc.toNat + 8 < 2 ^ 32 →
      (f.load = true → (f.wb = true → f.list.getLsbD n.val = false) →
        (∀ j < k, f.list.getLsbD j = true → CanRead s (addr j) 4 (userMode s)) →
        memAborts s.platform (addr k).toNat 4 .read (userMode s) = true →
          ∃ regs' draws', exec i s =
              .next (enterException .dataAbort { s with regs := regs', draws := draws' }) ∧
            (regs'.get (physReg s.cpsr.m n) = if baseMoves then blockBase f.mode b f.list else b) ∧
            ∀ p, p ≠ physReg s.cpsr.m n →
              (∀ j : Fin 15, f.list.getLsbD j.val = true → p ≠ blockReg f.bank s.cpsr.m j) →
                regs'.get p = s.regs.get p) ∧
      (f.load = false → (f.wb = true → f.list.getLsbD n.val = true → slotOf f.list n.val = 0) →
        (f.list.getLsbD 15 = true → s.platform.pcStoreOffset ≠ none) →
        (∀ j < k, f.list.getLsbD j = true → CanWrite s (addr j) 4 (userMode s)) →
        ¬ InCode s (addr k).toNat 4 →
        memAborts s.platform (addr k).toNat 4 .write (userMode s) = true →
          ∃ m', exec i s = .next (enterException .dataAbort { s with
              mem := m'
              regs := if baseMoves then s.regs.set (physReg s.cpsr.m n) (blockBase f.mode b f.list) else s.regs }) ∧
            (∀ j < k, f.list.getLsbD j = true →
              wordAt m' (slotAddress f.mode b f.list j) = blockWord f.bank s j) ∧
            ∀ a, (a < slotAddress f.mode b f.list 0 ∨ slotAddress f.mode b f.list k ≤ a) →
              readByte m' a = readByte s.mem a)

/-- The refusals of a block transfer (47_load_store_multiple.md R301, R305). Where several rows of the table apply, the
order is the model's reading (log 19). -/
def Obligations.BlockRestrictions : Prop :=
  ∀ (i : Instr) (f : BlockForm) (s : State), blockForm? i = some f → Passes f.cond s →
    (f.list = 0#16 → exec i s = .refused .emptyRegisterList) ∧
    (f.list ≠ 0#16 → f.rn = .pc → exec i s = .refused .r15Operand) ∧
    ∀ n, f.rn = .r n → f.list ≠ 0#16 → (readGeneral s n).toNat % 4 = 0 →
      let listed := f.wb = true ∧ f.list.getLsbD n.val = true
      let storesPc := f.load = false ∧ f.list.getLsbD 15 = true ∧ s.platform.pcStoreOffset = none
      let start := blockStart f.mode (readGeneral s n).toNat (slotOf f.list 16)
      (f.load = true → listed → exec i s = .refused .writebackOverlap) ∧
      (f.load = false → listed → slotOf f.list n.val ≠ 0 → exec i s = .refused .writebackOverlap) ∧
      (¬ (listed ∧ slotOf f.list n.val ≠ 0) → storesPc → exec i s = .refused .storeOfR15) ∧
      (f.restore = true → ¬ listed → ¬ HasSpsr s.cpsr.m → exec i s = .refused .noSpsr) ∧
      (f.bank = .userBank → ¬ storesPc → ¬ HasSpsr s.cpsr.m → exec i s = .refused .userBankInUserMode) ∧
      (¬ (listed ∧ (f.load = true ∨ slotOf f.list n.val ≠ 0)) → ¬ storesPc →
        ((f.restore = true ∨ f.bank = .userBank) → HasSpsr s.cpsr.m) →
        (start < 0 ∨ 2 ^ 32 < start + 4 * slotOf f.list 16) → exec i s = .refused .addressWrap)

/-- A push and the pop that meets it, in all four pairs of modes (47_load_store_multiple.md R314): after STM with `!` and
the LDM of the opposite mode with `!` over the same list, every register, the base among them, holds what it held, where
the base and R15 are not listed, the base does not wrap and no access aborts. -/
def Obligations.PushThenPopRestoresRegisters : Prop :=
  ∀ (push pop : BlockMode) (n : Fin 15) (list : BitVec 16) (s : State),
    (push, pop) ∈ [(BlockMode.db, BlockMode.ia), (.ib, .da), (.ia, .db), (.da, .ib)] →
    let b := readGeneral s n
    BlockOk push b list → 4 * slotOf list 16 ≤ b.toNat → b.toNat + 4 * slotOf list 16 < 2 ^ 32 →
    list.getLsbD n.val = false → list.getLsbD 15 = false → AllWritable s push b list →
    s.platform.abortRules = [] → s.pc.toNat + 8 < 2 ^ 32 →
      ∃ t u, exec (.stm1 .al push true (.r n) list) s = .next t ∧
        exec (.ldm1 .al pop true (.r n) list) t = .next u ∧
        u.regs = s.regs ∧ u.cpsr = s.cpsr ∧ u.spsr = s.spsr ∧ u.pc = s.pc + 8#32

/-! ## Exceptions (60_exceptions.md) -/

/-- SWI takes the Software Interrupt exception and a word of the undefined or a coprocessor space the Undefined
Instruction exception, with no other effect (60_exceptions.md R362, R363; 49_swi.md R340; 30_encoding.md R127, R128). -/
def Obligations.TrapsTakeTheirException : Prop :=
  ∀ (c : Cond) (s : State), Passes c s → HasNext s →
    (∀ imm, exec (.swi c imm) s = .next { s with
      regs := s.regs.set (.r14 .svc) (s.pc + 4#32)
      spsr := s.spsr.set .svc s.cpsr.save
      cpsr := { s.cpsr with i := true, t := false, m := .exc .svc }
      pc := 0x00000008#32
      afterUserTransfer := false }) ∧
    ∀ (hi : BitVec 20) (lo : BitVec 4) (x : BitVec 25) (y : BitVec 24),
      ∀ i ∈ [Instr.undefinedSpace c hi lo, .coprocTransfer c x, .coprocOperation c y],
        exec i s = .next { s with
          regs := s.regs.set (.r14 .und) (s.pc + 4#32)
          spsr := s.spsr.set .und s.cpsr.save
          cpsr := { s.cpsr with i := true, t := false, m := .exc .und }
          pc := 0x00000004#32
          afterUserTransfer := false }

/-- Taking an exception (60_exceptions.md R360): the link in R14 and the old CPSR in the SPSR of the new mode, M, T and I
as stated, F set for FIQ (and Reset) alone, the pc at the vector; no other register, no flag and no byte of memory
changes. A link past the top of the address space is refused. -/
def Obligations.ExceptionEntry : Prop :=
  (∀ (e : Exc) (s : State),
    let m : ExcMode := match e with
      | .undefined => .und | .softwareInterrupt => .svc | .prefetchAbort => .abt
      | .dataAbort => .abt | .irq => .irq | .fiq => .fiq
    let vector : Word := match e with
      | .undefined => 0x04#32 | .softwareInterrupt => 0x08#32 | .prefetchAbort => 0x0C#32
      | .dataAbort => 0x10#32 | .irq => 0x18#32 | .fiq => 0x1C#32
    let link : Nat := if e = .dataAbort then 8 else 4
    (s.pc.toNat + link < 2 ^ 32 → ∃ t, takeException e s = .next t ∧
      (t.regs.get (.r14 m)).toNat = s.pc.toNat + link ∧ (∀ p, p ≠ .r14 m → t.regs.get p = s.regs.get p) ∧
      t.spsr.get m = { n := s.cpsr.n, z := s.cpsr.z, c := s.cpsr.c, v := s.cpsr.v, i := s.cpsr.i, f := s.cpsr.f,
                       t := s.cpsr.t, m := s.cpsr.m.bits } ∧
      (∀ m', m' ≠ m → t.spsr.get m' = s.spsr.get m') ∧
      t.cpsr = { s.cpsr with i := true, f := s.cpsr.f || decide (e = .fiq), t := false, m := .exc m } ∧
      t.pc = vector ∧ t.mem = s.mem) ∧
    (2 ^ 32 ≤ s.pc.toNat + link → takeException e s = .refused .pcWrap)) ∧
  ∀ s : State, (resetEntry s).cpsr.f = true ∧ (resetEntry s).cpsr.i = true

/-- The return instruction of each exception, executed right after its entry from a word-aligned pc with T clear,
restores the whole CPSR and resumes where the table says; it changes nothing else (60_exceptions.md R374). The words are
the table's. -/
def Obligations.ReturnResumesAfterException : Prop :=
  decodeWord 0xE1B0F00E#32 = .ok (.movShiftImm .al true .pc (.r 14) .lsl 0#5) ∧
  decodeWord 0xE25EF004#32 = .ok (.subImm .al true .pc (.r 14) 0#4 4#8) ∧
  decodeWord 0xE25EF008#32 = .ok (.subImm .al true .pc (.r 14) 0#4 8#8) ∧
  ∀ s : State, wordAligned s.pc = true → s.cpsr.t = false → s.pc.toNat + 8 < 2 ^ 32 →
    let returns := fun (e : Exc) (ret : Instr) (resumeAt : Word) =>
      exec ret (enterException e s) =
        .next { enterException e s with cpsr := s.cpsr, pc := resumeAt }
    let movs : Instr := .movShiftImm .al true .pc (.r 14) .lsl 0#5
    let subs4 : Instr := .subImm .al true .pc (.r 14) 0#4 4#8
    let subs8 : Instr := .subImm .al true .pc (.r 14) 0#4 8#8
    returns .softwareInterrupt movs (s.pc + 4#32) ∧ returns .undefined movs (s.pc + 4#32) ∧
    returns .prefetchAbort subs4 s.pc ∧ returns .dataAbort subs8 s.pc ∧ returns .dataAbort subs4 (s.pc + 4#32) ∧
    returns .irq subs4 s.pc ∧ returns .fiq subs4 s.pc

/-! ## The whole machine -/

/-- Every step keeps the invariant: canonical memory, a word-aligned pc, T clear, the hazard bit only in a mode with an
SPSR (10_state.md R35, R37, R41; 45_branch.md R253). -/
def Obligations.StepKeepsInvariant : Prop :=
  ∀ s t : State, Inv s → step s = .next t → Inv t

/-- The invariant holds after reset. -/
def Obligations.ResetMeetsInvariant : Prop :=
  Inv State.reset

/-- What reset fixes (70_reset_and_hazards.md R410): Supervisor mode, both interrupts disabled, ARM state, the pc at
address 0, in the state after reset and after the Reset event from any state, which leaves memory alone; reserved bits
read as 0 (10_state.md R45). Nothing is said of the registers and flags, which are unspecified there. -/
def Obligations.ResetFixesModeMasksAndPc : Prop :=
  (State.reset.pc = 0x00000000#32 ∧ State.reset.cpsr.m = .exc .svc ∧ State.reset.cpsr.i = true ∧
    State.reset.cpsr.f = true ∧ State.reset.cpsr.t = false ∧
    ∀ k, 8 ≤ k → k < 28 → State.reset.cpsr.save.toWord.getLsbD k = false) ∧
  ∀ s : State, (resetEntry s).pc = 0x00000000#32 ∧ (resetEntry s).cpsr.m = .exc .svc ∧
    (resetEntry s).cpsr.i = true ∧ (resetEntry s).cpsr.f = true ∧ (resetEntry s).cpsr.t = false ∧
    (resetEntry s).mem = s.mem

/-- The register a number names in a mode (10_state.md R33), and that a write through a number changes that register
alone. -/
def Obligations.RegisterBanks : Prop :=
  (∀ (m : Mode) (n : Fin 15),
    (n.val ≤ 7 → physReg m n = .user n) ∧
    (8 ≤ n.val → n.val ≤ 12 → m ≠ .exc .fiq → physReg m n = .user n) ∧
    (8 ≤ n.val → n.val ≤ 12 → m = .exc .fiq → ∃ k, physReg m n = .fiqHigh k ∧ k.val = n.val - 8) ∧
    (13 ≤ n.val → ¬ HasSpsr m → physReg m n = .user n) ∧
    (∀ e, m = .exc e → n.val = 13 → physReg m n = .r13 e) ∧
    ∀ e, m = .exc e → n.val = 14 → physReg m n = .r14 e) ∧
  ∀ (s : State) (n : Fin 15) (v : Word),
    readGeneral s n = s.regs.get (physReg s.cpsr.m n) ∧
    (writeGeneral s n v).regs.get (physReg s.cpsr.m n) = v ∧
    ∀ p, p ≠ physReg s.cpsr.m n → (writeGeneral s n v).regs.get p = s.regs.get p

/-- User mode is left only by an exception, and while it lasts nothing of another mode changes: the interrupt masks, the
SPSRs and the banked registers stay, but for what exception entry writes (60_exceptions.md R353, R354, R369). -/
def Obligations.UserModeIsConfined : Prop :=
  ∀ s t : State, s.cpsr.m = .user → step s = .next t →
    (t.cpsr.m = .user ∧ t.cpsr.i = s.cpsr.i ∧ t.cpsr.f = s.cpsr.f ∧ t.spsr = s.spsr ∧
      ∀ p, (∀ n, p ≠ .user n) → t.regs.get p = s.regs.get p) ∨
    ∃ e : Exc, t.cpsr.m = .exc e.mode ∧ t.pc = Config.vectorBase + e.vector ∧ t.cpsr.i = true ∧
      (t.spsr.get e.mode).m = 0b10000#5 ∧ (∀ e', e' ≠ e.mode → t.spsr.get e' = s.spsr.get e') ∧
      ∀ p, (∀ n, p ≠ .user n) → p ≠ .r14 e.mode → t.regs.get p = s.regs.get p

/-- A banked register, one that no number names in the current mode (00_scope.md R15), keeps its value (10_state.md R32),
but for the R14 that taking an exception writes and, of the User bank, the registers listed by an LDM (2) that runs
(10_state.md R34). -/
def Obligations.BankedRegistersKeepTheirValues : Prop :=
  ∀ (s t : State) (p : PhysReg), step s = .next t → (∀ n, physReg s.cpsr.m n ≠ p) →
    t.regs.get p = s.regs.get p ∨
    (∃ e : Exc, p = .r14 e.mode ∧ t.cpsr.m = .exc e.mode ∧ t.pc = Config.vectorBase + e.vector) ∨
    ∃ (w : Word) (c : Cond) (mode : BlockMode) (rn : Reg) (list : BitVec 16) (n : Fin 15),
      Fetches s w ∧ decodeWord w = .ok (.ldm2 c mode rn list) ∧ Passes c s ∧ list.getLsbD n.val = true ∧ p = .user n

end Statements
end

