-- ==== Sys2Proof/Laws/Assembly.lean ====
section
/-! SUPPORT. What the written operands of Machine/Assembly.lean assemble to (30_encoding.md R122, R125; 41_move_psr.md
R169). -/

namespace Sys2Proof.Laws

open Sys2Proof.Machine Sys2Proof.Safety

/-- A written shift has fields exactly where the spec's table has a row. -/
theorem shift_fields_iff (sh : WrittenShift) : (∃ p, sh.fields = some p) ↔ ShiftWritable sh := by
  cases sh <;> simp [WrittenShift.fields, ShiftWritable] <;> omega

/-- The fields of a written shift give its value. -/
theorem shiftByImm_of_fields {sh : WrittenShift} {p : Shift × BitVec 5} (h : sh.fields = some p) (x : Word) (c : Bool) :
    (shiftByImm p.1 p.2 x c).1 = shiftWritten sh x c := by
  cases sh <;> simp only [WrittenShift.fields] at h
  case none => cases h; simp [shiftByImm, shiftWritten]
  case rrx =>
    cases h
    refine BitVec.eq_of_getLsbD_eq fun i hi => ?_
    have low : ∀ b : BitVec 1, (b ++ BitVec.extractLsb' 1 31 x : BitVec (1 + 31)).getLsbD i =
        if i < 31 then x.getLsbD (i + 1) else b.getLsbD (i - 31) := by
      intro b
      rw [BitVec.getLsbD_append]
      rcases Nat.lt_or_ge i 31 with h | h <;> simp [h, Nat.not_lt.mpr, Nat.add_comm]
    have top : (0x80000000#32).getLsbD i = decide (i = 31) :=
      (by decide : ∀ k : Fin 32, (0x80000000#32).getLsbD k.val = decide (k.val = 31)) ⟨i, hi⟩
    cases c
    · refine Eq.trans ?_ (low 0#1).symm
      rcases Nat.lt_or_ge i 31 with h | h
      · simp [shiftByImm, h, Nat.add_comm]
      · simp [shiftByImm, (by omega : i = 31)]
    · refine Eq.trans ?_ (low 1#1).symm
      rcases Nat.lt_or_ge i 31 with h | h
      · simp [shiftByImm, h, top, Nat.add_comm]; omega
      · simp [shiftByImm, (by omega : i = 31)]
  all_goals
    split at h <;> cases h
    rename_i n hn
  · have : n % 32 = n := by omega
    simp only [shiftByImm, shiftWritten, BitVec.toNat_ofNat, Nat.reducePow, this]
    split <;> simp_all
  · rcases Nat.lt_or_ge n 32 with h | h
    · have : n % 32 = n := by omega
      simp only [shiftByImm, shiftWritten, BitVec.toNat_ofNat, Nat.reducePow, this]
      split <;> simp_all
    · have : n = 32 := by omega
      subst this
      simp [shiftByImm, shiftWritten, BitVec.ushiftRight_eq_zero]
  · rcases Nat.lt_or_ge n 32 with h | h
    · have : n % 32 = n := by omega
      simp only [shiftByImm, shiftWritten, BitVec.toNat_ofNat, Nat.reducePow, this]
      split <;> simp_all
    · have : n = 32 := by omega
      subst this
      refine BitVec.eq_of_getLsbD_eq fun i hi => ?_
      have ones : (0xFFFFFFFF#32).getLsbD i = true := 
        (by decide : ∀ k : Fin 32, (0xFFFFFFFF#32).getLsbD k.val = true) ⟨i, hi⟩
      simp only [shiftByImm, shiftWritten, signFill, BitVec.getLsbD_sshiftRight]
      cases hm : x.msb <;> simp [ones] <;> omega
  · have : n % 32 = n := by omega
    simp only [shiftByImm, shiftWritten, BitVec.toNat_ofNat, Nat.reducePow, this, rotateRight, BitVec.rotateRight_def]
    split <;> simp_all

/-- The bits of a mask built by setting one bit for each member of a list. -/
theorem getLsbD_foldl_or {α : Type} {w : Nat} (bit : α → BitVec w) (k : Nat) (l : List α) (acc : BitVec w) :
    (l.foldl (fun m a => m ||| bit a) acc).getLsbD k = true ↔
      acc.getLsbD k = true ∨ ∃ a ∈ l, (bit a).getLsbD k = true := by
  induction l generalizing acc with
  | nil => simp
  | cons a l ih => rw [List.foldl_cons, ih]; simp [or_assoc]

/-- Bit `i` of a written list is set exactly when R`i` is named (30_encoding.md R125). -/
theorem assembleList_getLsbD (regs : List Reg) (r : Reg) :
    (assembleList regs).getLsbD (regNumber r) = true ↔ r ∈ regs := by
  have one : ∀ a : Reg, (BitVec.ofNat 16 (2 ^ regNumber a)).getLsbD (regNumber r) = true ↔ a = r := by
    have : ∀ n m : Fin 16, (BitVec.ofNat 16 (2 ^ n.val)).getLsbD m.val = true ↔ n = m := by decide
    intro a
    have lt : ∀ q : Reg, regNumber q < 16 := fun q => by cases q <;> simp [regNumber]; omega
    refine (this ⟨_, lt a⟩ ⟨_, lt r⟩).trans ?_
    cases a <;> cases r <;> simp [regNumber, Fin.ext_iff] <;> omega
  simp only [assembleList, getLsbD_foldl_or, one]
  simp

/-- A mask bit is set exactly when its letter is written (41_move_psr.md R169). -/
theorem assembleFields_getLsbD {fields : List PsrField} {mask : BitVec 4} (h : assembleFields fields = some mask) :
    (mask.getLsbD 0 = true ↔ .c ∈ fields) ∧ (mask.getLsbD 1 = true ↔ .x ∈ fields) ∧
      (mask.getLsbD 2 = true ↔ .s ∈ fields) ∧ (mask.getLsbD 3 = true ↔ .f ∈ fields) := by
  simp only [assembleFields] at h
  split at h <;> cases h
  have bits : ∀ (k : Nat) (g : PsrField), (∀ a : PsrField, a.bit.getLsbD k = true ↔ a = g) →
      ((fields.foldl (fun m a => m ||| a.bit) 0#4).getLsbD k = true ↔ g ∈ fields) := by
    intro k g hg
    simp [getLsbD_foldl_or, hg]
  exact ⟨bits 0 .c fun a => by cases a <;> decide, bits 1 .x fun a => by cases a <;> decide,
    bits 2 .s fun a => by cases a <;> decide, bits 3 .f fun a => by cases a <;> decide⟩

end Sys2Proof.Laws
end

