-- ==== Sys2Proof/Laws/Memory.lean ====
section
/-! SUPPORT. The laws of memory: a read after a write, what a write leaves alone, and the canonical form, which every
operation that writes keeps (20_memory.md R70 to R73). -/

namespace Sys2Proof.Machine

open Sys2Proof.Safety

/-! ## One byte -/

theorem readByte_filter_same (m : Memory) (a : Nat) :
    readByte (m.filter fun cell => cell.1 != a) a = Config.unlistedByte := by
  induction m with
  | nil => rfl
  | cons cell rest ih =>
    obtain ⟨b, v⟩ := cell
    by_cases h : b = a
    · simpa [h] using ih
    · simpa [h, readByte] using ih

theorem readByte_filter_other (m : Memory) {a b : Nat} (h : b ≠ a) :
    readByte (m.filter fun cell => cell.1 != a) b = readByte m b := by
  induction m with
  | nil => rfl
  | cons cell rest ih =>
    obtain ⟨c, v⟩ := cell
    by_cases hc : c = a
    · subst hc
      simpa [readByte, Ne.symm h] using ih
    · simp [hc, readByte, ih]

/-- The lowest listed address wins: what holds of every listed address of a filtered memory. -/
theorem mem_filter_ne {m : Memory} {a : Nat} {cell : Host.Cell} (h : cell ∈ m.filter fun c => c.1 != a) :
    cell.1 ≠ a := by
  simpa using (List.mem_filter.mp h).2

theorem readByte_insertByte_same (m : Memory) (a : Nat) (v : Byte) (h : ∀ cell ∈ m, cell.1 ≠ a) :
    readByte (insertByte m a v) a = v := by
  induction m with
  | nil => simp [insertByte, readByte]
  | cons cell rest ih =>
    obtain ⟨b, w⟩ := cell
    have hb : b ≠ a := h (b, w) (by simp)
    have ih' := ih fun c hc => h c (by simp [hc])
    by_cases hlt : a < b
    · simp [insertByte, hlt, readByte]
    · simp [insertByte, hlt, readByte, hb, ih']

theorem readByte_insertByte_other (m : Memory) {a b : Nat} (v : Byte) (h : b ≠ a) :
    readByte (insertByte m a v) b = readByte m b := by
  induction m with
  | nil => simp [insertByte, readByte, Ne.symm h]
  | cons cell rest ih =>
    obtain ⟨c, w⟩ := cell
    by_cases hlt : a < c
    · simp [insertByte, hlt, readByte, Ne.symm h]
    · simp [insertByte, hlt, readByte, ih]

/-- A byte read where it was written (20_memory.md R82). -/
@[simp] theorem readByte_writeByte_same (m : Memory) (a : Nat) (v : Byte) : readByte (writeByte m a v) a = v := by
  simp only [writeByte]
  split
  · next h => rw [readByte_filter_same, h]
  · exact readByte_insertByte_same _ _ _ fun _ => mem_filter_ne

/-- A byte read elsewhere (20_memory.md R78). -/
theorem readByte_writeByte_other (m : Memory) {a b : Nat} (v : Byte) (h : b ≠ a) :
    readByte (writeByte m a v) b = readByte m b := by
  simp only [writeByte]
  split
  · exact readByte_filter_other m h
  · rw [readByte_insertByte_other _ _ h, readByte_filter_other m h]

/-! ## The canonical form -/

theorem Memory.wf_cons {a : Nat} {v : Byte} {rest : Memory} :
    Memory.wf ((a, v) :: rest) = true ↔
      v ≠ Config.unlistedByte ∧ a < 2 ^ 32 ∧ (∀ cell ∈ rest, a < cell.1) ∧ Memory.wf rest = true := by
  simp [Memory.wf, and_assoc]

theorem Memory.wf_filter {m : Memory} (p : Host.Cell → Bool) (h : Memory.wf m = true) :
    Memory.wf (m.filter p) = true := by
  induction m with
  | nil => rfl
  | cons cell rest ih =>
    obtain ⟨a, v⟩ := cell
    obtain ⟨hv, ha, hall, hrest⟩ := Memory.wf_cons.mp h
    by_cases hp : p (a, v) = true
    · rw [List.filter_cons_of_pos hp]
      exact Memory.wf_cons.mpr ⟨hv, ha, fun c hc => hall c (List.mem_filter.mp hc).1, ih hrest⟩
    · rw [List.filter_cons_of_neg hp]
      exact ih hrest

theorem mem_insertByte {m : Memory} {a : Nat} {v : Byte} {cell : Host.Cell} (h : cell ∈ insertByte m a v) :
    cell = (a, v) ∨ cell ∈ m := by
  induction m with
  | nil => simpa [insertByte] using h
  | cons c rest ih =>
    simp only [insertByte] at h
    split at h
    · simpa using h
    · rcases List.mem_cons.mp h with rfl | h
      · simp
      · rcases ih h with h | h <;> simp [h]

theorem Memory.wf_insertByte {m : Memory} {a : Nat} {v : Byte} (hm : Memory.wf m = true) (ha : a < 2 ^ 32)
    (hv : v ≠ Config.unlistedByte) (hne : ∀ cell ∈ m, cell.1 ≠ a) : Memory.wf (insertByte m a v) = true := by
  induction m with
  | nil => exact Memory.wf_cons.mpr ⟨hv, ha, by simp, rfl⟩
  | cons cell rest ih =>
    obtain ⟨b, w⟩ := cell
    obtain ⟨hw, hb, hall, hrest⟩ := Memory.wf_cons.mp hm
    have hba : b ≠ a := hne (b, w) (by simp)
    simp only [insertByte]
    split
    · next hlt =>
      refine Memory.wf_cons.mpr ⟨hv, ha, fun c hc => ?_, hm⟩
      rcases List.mem_cons.mp hc with rfl | hc
      · exact hlt
      · exact hlt.trans (hall c hc)
    · next hlt =>
      refine Memory.wf_cons.mpr ⟨hw, hb, fun c hc => ?_, ih hrest fun c hc => hne c (by simp [hc])⟩
      rcases mem_insertByte hc with rfl | hc
      · exact lt_of_le_of_ne (not_lt.mp hlt) hba
      · exact hall c hc

/-- Writing a byte of the address space keeps the canonical form. -/
theorem Memory.wf_writeByte {m : Memory} {a : Nat} (v : Byte) (hm : Memory.wf m = true) (ha : a < 2 ^ 32) :
    Memory.wf (writeByte m a v) = true := by
  simp only [writeByte]
  split
  · exact Memory.wf_filter _ hm
  · next hv => exact Memory.wf_insertByte (Memory.wf_filter _ hm) ha hv fun _ => mem_filter_ne

/-- Storing bytes of the address space keeps the canonical form. -/
theorem Memory.wf_storeBytes {m : Memory} {a : Nat} {v : Word} {n : Nat} (hm : Memory.wf m = true)
    (ha : a + n ≤ 2 ^ 32) : Memory.wf (storeBytes m a v n) = true := by
  induction n generalizing m a v with
  | zero => exact hm
  | succ n ih => exact ih (Memory.wf_writeByte _ hm (by omega)) (by omega)

theorem Memory.wf_reset : Memory.wf State.reset.mem = true := rfl

theorem Memory.eq_of_readByte_head {m : Memory} {b : Nat} (h : ∀ cell ∈ m, b < cell.1) :
    readByte m b = Config.unlistedByte := by
  induction m with
  | nil => rfl
  | cons cell rest ih =>
    obtain ⟨c, v⟩ := cell
    have hc : c ≠ b := (h (c, v) (by simp)).ne'
    simpa [readByte, hc] using ih fun d hd => h d (by simp [hd])

/-- Canonical memories that read alike are one: equal memories are equal data. -/
theorem Memory.ext_readByte {m k : Memory} (hm : Memory.wf m = true) (hk : Memory.wf k = true)
    (h : ∀ a, readByte m a = readByte k a) : m = k := by
  induction m generalizing k with
  | nil =>
    cases k with
    | nil => rfl
    | cons cell rest =>
      obtain ⟨a, v⟩ := cell
      exact absurd (by simpa [readByte] using (h a).symm) (Memory.wf_cons.mp hk).1
  | cons cell rest ih =>
    obtain ⟨a, v⟩ := cell
    obtain ⟨hv, -, hall, hrest⟩ := Memory.wf_cons.mp hm
    cases k with
    | nil => exact absurd (by simpa [readByte] using h a) hv
    | cons cell' rest' =>
      obtain ⟨b, w⟩ := cell'
      obtain ⟨hw, -, hall', hrest'⟩ := Memory.wf_cons.mp hk
      have ha := h a
      have hb := h b
      rcases lt_trichotomy a b with hlt | rfl | hlt
      · have := Memory.eq_of_readByte_head (m := (b, w) :: rest') (b := a) fun c hc => by
          rcases List.mem_cons.mp hc with rfl | hc
          · exact hlt
          · exact hlt.trans (hall' c hc)
        simp only [readByte, if_pos] at ha
        exact absurd (ha.trans (by simpa [readByte] using this)) hv
      · have hvw : v = w := by simpa [readByte] using ha
        subst hvw
        rw [ih hrest hrest' fun c => ?_]
        by_cases hc : c = a
        · subst hc
          rw [Memory.eq_of_readByte_head hall, Memory.eq_of_readByte_head hall']
        · simpa [readByte, Ne.symm hc] using h c
      · have := Memory.eq_of_readByte_head (m := (a, v) :: rest) (b := b) fun c hc => by
          rcases List.mem_cons.mp hc with rfl | hc
          · exact hlt
          · exact hlt.trans (hall c hc)
        simp only [readByte, if_pos] at hb
        exact absurd (hb.symm.trans (by simpa [readByte] using this)) hw

/-! ## Several bytes -/

/-- What a store leaves alone (20_memory.md R78). -/
theorem readByte_storeBytes_outside (m : Memory) {a b : Nat} (v : Word) {n : Nat} (h : b < a ∨ a + n ≤ b) :
    readByte (storeBytes m a v n) b = readByte m b := by
  induction n generalizing m a v with
  | zero => rfl
  | succ n ih =>
    rw [storeBytes, ih _ _ (by omega), readByte_writeByte_other _ _ (by omega)]

/-- Each byte of a store (20_memory.md R73). -/
theorem readByte_storeBytes_inside (m : Memory) (a : Nat) (v : Word) {n k : Nat} (h : k < n) :
    readByte (storeBytes m a v n) (a + k) = v.extractLsb' (8 * k) 8 := by
  induction n generalizing m a v k with
  | zero => omega
  | succ n ih =>
    rw [storeBytes]
    cases k with
    | zero =>
      rw [readByte_storeBytes_outside _ _ (by omega), Nat.add_zero, readByte_writeByte_same]
      ext i hi
      simp
    | succ k =>
      rw [show a + (k + 1) = a + 1 + k by omega, ih _ _ _ (by omega)]
      ext i hi
      simp [show 8 + (8 * k + i) = 8 * (k + 1) + i by omega]

/-- A store, as the statements say it (20_memory.md R73). -/
theorem stored_storeBytes (m : Memory) (a n : Nat) (v : Word) : Stored m (storeBytes m a v n) a n v :=
  ⟨fun _ h => readByte_storeBytes_inside m a v h, fun _ h => readByte_storeBytes_outside m v h⟩

/-- Bit `i` of what a load of `n` bytes reads: a bit of the byte at `a + i / 8` (20_memory.md R72). -/
theorem getLsbD_loadBytes (m : Memory) (a n i : Nat) :
    (loadBytes m a n).getLsbD i =
      (decide (i < 32) && decide (i < 8 * n) && (readByte m (a + i / 8)).getLsbD (i % 8)) := by
  induction n generalizing a i with
  | zero => simp [loadBytes]
  | succ n ih =>
    rw [loadBytes, BitVec.getLsbD_or, BitVec.getLsbD_shiftLeft, BitVec.getLsbD_setWidth, ih]
    by_cases h : i < 8
    · simp [h, Nat.div_eq_of_lt h, Nat.mod_eq_of_lt h, show i < 32 by omega, show i < 8 * (n + 1) by omega]
    · have h8 : 8 ≤ i := by omega
      rw [show a + 1 + (i - 8) / 8 = a + i / 8 by omega, show (i - 8) % 8 = i % 8 by omega,
        BitVec.getLsbD_of_ge (readByte m a) i h8]
      by_cases h32 : i < 32
      · simp [h, h32, show i - 8 < 32 by omega, show i - 8 < 8 * n ↔ i < 8 * (n + 1) by omega]
      · simp [h32]

/-- Bit `i` of the word of four bytes. -/
theorem getLsbD_wordAt (m : Memory) (a i : Nat) :
    (wordAt m a).getLsbD i = (decide (i < 32) && (readByte m (a + i / 8)).getLsbD (i % 8)) := by
  simp only [wordAt, BitVec.getLsbD_append]
  by_cases h0 : i < 8
  · simp [h0, show i / 8 = 0 by omega, show i % 8 = i by omega, show i < 32 by omega]
  by_cases h1 : i < 16
  · simp [h0, show i - 8 < 8 by omega, show i / 8 = 1 by omega, show i % 8 = i - 8 by omega, show i < 32 by omega]
  by_cases h2 : i < 24
  · simp [h0, show ¬ i - 8 < 8 by omega, show i - 8 - 8 < 8 by omega, show i / 8 = 2 by omega,
      show i % 8 = i - 8 - 8 by omega, show i < 32 by omega]
  by_cases h3 : i < 32
  · simp [h0, show ¬ i - 8 < 8 by omega, show ¬ i - 8 - 8 < 8 by omega, show i / 8 = 3 by omega,
      show i % 8 = i - 8 - 8 - 8 by omega, h3]
  · simp [h0, show ¬ i - 8 < 8 by omega, show ¬ i - 8 - 8 < 8 by omega, h3,
      BitVec.getLsbD_of_ge (readByte m (a + 3)) (i - 8 - 8 - 8) (by omega)]

/-- The word of four bytes (20_memory.md R72). -/
theorem loadBytes_four (m : Memory) (a : Nat) : loadBytes m a 4 = wordAt m a := by
  refine BitVec.eq_of_getLsbD_eq fun i hi => ?_
  rw [getLsbD_loadBytes, getLsbD_wordAt]
  simp [hi]

/-- A load, extended as its instruction says, from the bytes it reads (46_load_store_single.md R275 to R281). -/
theorem extendLoaded_loadBytes (sz : Size) (signed : Bool) (m : Memory) (a : Nat) :
    extendLoaded sz signed (loadBytes m a sz.bytes) = loadValue sz signed m a := by
  have byte : (loadBytes m a 1).setWidth 8 = readByte m a := by
    refine BitVec.eq_of_getLsbD_eq fun i hi => ?_
    rw [BitVec.getLsbD_setWidth, getLsbD_loadBytes]
    simp [hi, show i < 32 by omega, Nat.div_eq_of_lt hi, Nat.mod_eq_of_lt hi]
  have half : (loadBytes m a 2).setWidth 16 = readByte m (a + 1) ++ readByte m a := by
    refine BitVec.eq_of_getLsbD_eq fun i hi => ?_
    rw [BitVec.getLsbD_setWidth, getLsbD_loadBytes, BitVec.getLsbD_append]
    by_cases h : i < 8
    · simp [h, hi, show i < 32 by omega, Nat.div_eq_of_lt h, Nat.mod_eq_of_lt h]
    · simp [h, hi, show i < 32 by omega, show i / 8 = 1 by omega, show i % 8 = i - 8 by omega]
  cases sz <;> cases signed <;>
    simp [extendLoaded, loadValue, Size.bytes, byte, half, loadBytes_four]

/-- A word stored is the word read back (20_memory.md R90). -/
theorem wordAt_of_stored {m m' : Memory} {a : Nat} {v : Word} (h : Stored m m' a 4 v) : wordAt m' a = v := by
  refine BitVec.eq_of_getLsbD_eq fun i hi => ?_
  rw [getLsbD_wordAt, h.1 (i / 8) (by omega), BitVec.getLsbD_extractLsb']
  simp [hi, show i % 8 < 8 by omega, Nat.div_add_mod]

end Sys2Proof.Machine
end

