-- ==== Sys2Proof/Laws/State.lean ====
section
/-! SUPPORT. One lemma per field and per update of the state, true by unfolding the update once; the laws of the
register file, the banks and the status registers. -/

namespace Sys2Proof.Machine

/-! ## Fields after the updates -/

section Updates

variable (s : State) (n : Fin 15) (v : Word) (out : AluOut) (r : BitVec 64) (e : Exc) (w : Word)

@[simp] theorem writeGeneral_regs : (writeGeneral s n v).regs = s.regs.set (physReg s.cpsr.m n) v := rfl
@[simp] theorem writeGeneral_pc : (writeGeneral s n v).pc = s.pc := rfl
@[simp] theorem writeGeneral_cpsr : (writeGeneral s n v).cpsr = s.cpsr := rfl
@[simp] theorem writeGeneral_spsr : (writeGeneral s n v).spsr = s.spsr := rfl
@[simp] theorem writeGeneral_mem : (writeGeneral s n v).mem = s.mem := rfl
@[simp] theorem writeGeneral_afterUserTransfer :
    (writeGeneral s n v).afterUserTransfer = s.afterUserTransfer := rfl
@[simp] theorem writeGeneral_inputs : (writeGeneral s n v).inputs = s.inputs := rfl
@[simp] theorem writeGeneral_platform : (writeGeneral s n v).platform = s.platform := rfl
@[simp] theorem writeGeneral_draws : (writeGeneral s n v).draws = s.draws := rfl

@[simp] theorem writeUserBank_regs : (writeUserBank s n v).regs = s.regs.set (.user n) v := rfl
@[simp] theorem writeUserBank_pc : (writeUserBank s n v).pc = s.pc := rfl
@[simp] theorem writeUserBank_cpsr : (writeUserBank s n v).cpsr = s.cpsr := rfl
@[simp] theorem writeUserBank_spsr : (writeUserBank s n v).spsr = s.spsr := rfl
@[simp] theorem writeUserBank_mem : (writeUserBank s n v).mem = s.mem := rfl
@[simp] theorem writeUserBank_afterUserTransfer :
    (writeUserBank s n v).afterUserTransfer = s.afterUserTransfer := rfl
@[simp] theorem writeUserBank_inputs : (writeUserBank s n v).inputs = s.inputs := rfl
@[simp] theorem writeUserBank_platform : (writeUserBank s n v).platform = s.platform := rfl
@[simp] theorem writeUserBank_draws : (writeUserBank s n v).draws = s.draws := rfl

@[simp] theorem setFlags_regs : (setFlags out s).regs = s.regs := rfl
@[simp] theorem setFlags_pc : (setFlags out s).pc = s.pc := rfl
@[simp] theorem setFlags_cpsr : (setFlags out s).cpsr =
    { s.cpsr with n := out.value.msb, z := out.value == 0#32, c := out.c, v := out.v } := rfl
@[simp] theorem setFlags_spsr : (setFlags out s).spsr = s.spsr := rfl
@[simp] theorem setFlags_mem : (setFlags out s).mem = s.mem := rfl
@[simp] theorem setFlags_afterUserTransfer : (setFlags out s).afterUserTransfer = s.afterUserTransfer := rfl
@[simp] theorem setFlags_inputs : (setFlags out s).inputs = s.inputs := rfl
@[simp] theorem setFlags_platform : (setFlags out s).platform = s.platform := rfl
@[simp] theorem setFlags_draws : (setFlags out s).draws = s.draws := rfl

@[simp] theorem setMulFlags_regs : (setMulFlags v s).regs = s.regs := rfl
@[simp] theorem setMulFlags_pc : (setMulFlags v s).pc = s.pc := rfl
@[simp] theorem setMulFlags_cpsr : (setMulFlags v s).cpsr =
    { s.cpsr with n := v.msb, z := v == 0#32, c := freeBit s 0 } := rfl
@[simp] theorem setMulFlags_spsr : (setMulFlags v s).spsr = s.spsr := rfl
@[simp] theorem setMulFlags_mem : (setMulFlags v s).mem = s.mem := rfl
@[simp] theorem setMulFlags_afterUserTransfer : (setMulFlags v s).afterUserTransfer = s.afterUserTransfer := rfl
@[simp] theorem setMulFlags_inputs : (setMulFlags v s).inputs = s.inputs := rfl
@[simp] theorem setMulFlags_platform : (setMulFlags v s).platform = s.platform := rfl
@[simp] theorem setMulFlags_draws : (setMulFlags v s).draws = s.draws + 1 := rfl

@[simp] theorem setMulLongFlags_regs : (setMulLongFlags r s).regs = s.regs := rfl
@[simp] theorem setMulLongFlags_pc : (setMulLongFlags r s).pc = s.pc := rfl
@[simp] theorem setMulLongFlags_cpsr : (setMulLongFlags r s).cpsr =
    { s.cpsr with n := r.msb, z := r == 0#64, c := freeBit s 0, v := freeBit s 1 } := rfl
@[simp] theorem setMulLongFlags_spsr : (setMulLongFlags r s).spsr = s.spsr := rfl
@[simp] theorem setMulLongFlags_mem : (setMulLongFlags r s).mem = s.mem := rfl
@[simp] theorem setMulLongFlags_afterUserTransfer :
    (setMulLongFlags r s).afterUserTransfer = s.afterUserTransfer := rfl
@[simp] theorem setMulLongFlags_inputs : (setMulLongFlags r s).inputs = s.inputs := rfl
@[simp] theorem setMulLongFlags_platform : (setMulLongFlags r s).platform = s.platform := rfl
@[simp] theorem setMulLongFlags_draws : (setMulLongFlags r s).draws = s.draws + 2 := rfl

@[simp] theorem enterException_regs : (enterException e s).regs =
    s.regs.set (.r14 e.mode) (s.pc + BitVec.ofNat 32 e.link) := rfl
@[simp] theorem enterException_pc : (enterException e s).pc = Config.vectorBase + e.vector := rfl
@[simp] theorem enterException_cpsr : (enterException e s).cpsr =
    { s.cpsr with i := true, f := s.cpsr.f || e.masksFiq, t := false, m := .exc e.mode } := rfl
@[simp] theorem enterException_spsr : (enterException e s).spsr = s.spsr.set e.mode s.cpsr.save := rfl
@[simp] theorem enterException_mem : (enterException e s).mem = s.mem := rfl
@[simp] theorem enterException_afterUserTransfer : (enterException e s).afterUserTransfer = false := rfl
@[simp] theorem enterException_inputs : (enterException e s).inputs = s.inputs := rfl
@[simp] theorem enterException_platform : (enterException e s).platform = s.platform := rfl
@[simp] theorem enterException_draws : (enterException e s).draws = s.draws := rfl

@[simp] theorem clearHazard_regs : (clearHazard s).regs = s.regs := rfl
@[simp] theorem clearHazard_pc : (clearHazard s).pc = s.pc := rfl
@[simp] theorem clearHazard_cpsr : (clearHazard s).cpsr = s.cpsr := rfl
@[simp] theorem clearHazard_spsr : (clearHazard s).spsr = s.spsr := rfl
@[simp] theorem clearHazard_mem : (clearHazard s).mem = s.mem := rfl
@[simp] theorem clearHazard_afterUserTransfer : (clearHazard s).afterUserTransfer = false := rfl
@[simp] theorem clearHazard_inputs : (clearHazard s).inputs = s.inputs := rfl
@[simp] theorem clearHazard_platform : (clearHazard s).platform = s.platform := rfl
@[simp] theorem clearHazard_draws : (clearHazard s).draws = s.draws := rfl

@[simp] theorem consumeInput_regs : (consumeInput s).regs = s.regs := rfl
@[simp] theorem consumeInput_pc : (consumeInput s).pc = s.pc := rfl
@[simp] theorem consumeInput_cpsr : (consumeInput s).cpsr = s.cpsr := rfl
@[simp] theorem consumeInput_spsr : (consumeInput s).spsr = s.spsr := rfl
@[simp] theorem consumeInput_mem : (consumeInput s).mem = s.mem := rfl
@[simp] theorem consumeInput_afterUserTransfer : (consumeInput s).afterUserTransfer = s.afterUserTransfer := rfl
@[simp] theorem consumeInput_inputs : (consumeInput s).inputs = s.inputs.tail := rfl
@[simp] theorem consumeInput_platform : (consumeInput s).platform = s.platform := rfl
@[simp] theorem consumeInput_draws : (consumeInput s).draws = s.draws := rfl

@[simp] theorem storeInstruction_regs : (storeInstruction w s).regs = s.regs := rfl
@[simp] theorem storeInstruction_pc : (storeInstruction w s).pc = s.pc := rfl
@[simp] theorem storeInstruction_cpsr : (storeInstruction w s).cpsr = s.cpsr := rfl
@[simp] theorem storeInstruction_spsr : (storeInstruction w s).spsr = s.spsr := rfl
@[simp] theorem storeInstruction_mem :
    (storeInstruction w s).mem = storeBytes s.mem s.pc.toNat w 4 := rfl
@[simp] theorem storeInstruction_afterUserTransfer :
    (storeInstruction w s).afterUserTransfer = s.afterUserTransfer := rfl
@[simp] theorem storeInstruction_inputs : (storeInstruction w s).inputs = s.inputs := rfl
@[simp] theorem storeInstruction_platform : (storeInstruction w s).platform = s.platform := rfl
@[simp] theorem storeInstruction_draws : (storeInstruction w s).draws = s.draws := rfl

end Updates

/-! ## Banks and the register file (10_state.md R32 to R34) -/

@[simp] theorem Banked.get_set_same {α : Type} (b : Banked α) (e : ExcMode) (a : α) : (b.set e a).get e = a := by
  cases e <;> rfl

theorem Banked.get_set_other {α : Type} (b : Banked α) {e f : ExcMode} (a : α) (h : f ≠ e) :
    (b.set e a).get f = b.get f := by
  cases e <;> cases f <;> first | rfl | exact absurd rfl h

@[simp] theorem RegFile.get_set_same (rf : RegFile) (p : PhysReg) (v : Word) : (rf.set p v).get p = v := by
  cases p <;> simp [RegFile.get, RegFile.set]

theorem RegFile.get_set_other (rf : RegFile) {p q : PhysReg} (v : Word) (h : q ≠ p) :
    (rf.set p v).get q = rf.get q := by
  cases p <;> cases q <;> simp only [RegFile.get, RegFile.set] <;>
    first
      | exact Banked.get_set_other _ _ fun he => h (by rw [he])
      | exact Vector.getElem_set_ne _ _ fun he => h (by rw [Fin.ext he])

/-- Two register files that read alike are one (10_state.md R32: 30 registers and no other). -/
theorem RegFile.ext_get {a b : RegFile} (h : ∀ p, a.get p = b.get p) : a = b := by
  obtain ⟨ua, fa, ⟨a1, a2, a3, a4, a5⟩, ⟨a6, a7, a8, a9, a10⟩⟩ := a
  obtain ⟨ub, fb, ⟨b1, b2, b3, b4, b5⟩, ⟨b6, b7, b8, b9, b10⟩⟩ := b
  have hu : ua = ub := Vector.ext fun i hi => h (.user ⟨i, hi⟩)
  have hf : fa = fb := Vector.ext fun i hi => h (.fiqHigh ⟨i, hi⟩)
  have h13 := fun e => h (.r13 e)
  have h14 := fun e => h (.r14 e)
  have h1 : a1 = b1 := h13 .fiq
  have h2 : a2 = b2 := h13 .irq
  have h3 : a3 = b3 := h13 .svc
  have h4 : a4 = b4 := h13 .abt
  have h5 : a5 = b5 := h13 .und
  have h6 : a6 = b6 := h14 .fiq
  have h7 : a7 = b7 := h14 .irq
  have h8 : a8 = b8 := h14 .svc
  have h9 : a9 = b9 := h14 .abt
  have h10 : a10 = b10 := h14 .und
  subst hu hf h1 h2 h3 h4 h5 h6 h7 h8 h9 h10
  rfl

/-- In one mode, two register numbers name two registers (10_state.md R33). -/
theorem physReg_injective (m : Mode) {a b : Fin 15} (h : physReg m a = physReg m b) : a = b := by
  revert a b
  cases m with
  | user => decide
  | system => decide
  | exc e => cases e <;> decide

@[simp] theorem readGeneral_writeGeneral_same (s : State) (n : Fin 15) (v : Word) :
    readGeneral (writeGeneral s n v) n = v := by
  simp [readGeneral]

theorem readGeneral_writeGeneral_other (s : State) {n k : Fin 15} (v : Word) (h : k ≠ n) :
    readGeneral (writeGeneral s n v) k = readGeneral s k := by
  simp only [readGeneral, writeGeneral_regs, writeGeneral_cpsr]
  exact RegFile.get_set_other _ _ fun he => h (physReg_injective _ he)

/-! ## Modes and status registers (10_state.md R39, R42, R45) -/

@[simp] theorem Mode.ofBits_bits (m : Mode) : Mode.ofBits m.bits = some m := by
  cases m with
  | user => rfl
  | system => rfl
  | exc e => cases e <;> rfl

theorem Mode.bits_ofBits {b : BitVec 5} {m : Mode} (h : Mode.ofBits b = some m) : m.bits = b := by
  simpa using List.find?_some h

@[simp] theorem Psr.restore_save (p : Psr Mode) : Psr.restore p.save = some p := by
  simp [Psr.restore, Psr.save]

@[simp] theorem Psr.save_t (p : Psr Mode) : p.save.t = p.t := rfl

theorem Psr.restore_some {p : Spsr} {q : Psr Mode} (h : Psr.restore p = some q) : q.save = p := by
  obtain ⟨m, hm, rfl⟩ := Option.map_eq_some_iff.mp h
  simp [Psr.save, Mode.bits_ofBits hm]

end Sys2Proof.Machine
end

