-- ==== Sys2Proof/Laws/Operations.lean ====
section
/-! SUPPORT. One lemma per shared operation that says everything it can do when it answers a next state, and one that
says when it does. -/

namespace Sys2Proof.Machine

open Sys2Proof.Safety

/-! ## The pc (10_state.md R35 to R38) -/

theorem pcPlus_eq_some {s : State} {k : Nat} {a : Word} :
    pcPlus s k = some a ↔ s.pc.toNat + k < 2 ^ 32 ∧ a = s.pc + BitVec.ofNat 32 k := by
  unfold pcPlus
  split <;> simp_all [eq_comm]

theorem advance_of_hasNext {s : State} (h : HasNext s) : advance s = .next { s with pc := s.pc + 4#32 } := by
  rw [advance, pcPlus, if_pos (show s.pc.toNat + 4 < 2 ^ 32 from h)]

theorem advance_of_not_hasNext {s : State} (h : ¬ HasNext s) : advance s = .refused .pcWrap := by
  rw [advance, pcPlus, if_neg (show ¬ s.pc.toNat + 4 < 2 ^ 32 from h)]

theorem advance_next {s t : State} (h : advance s = .next t) : HasNext s ∧ t = { s with pc := s.pc + 4#32 } := by
  by_cases hs : HasNext s
  · rw [advance_of_hasNext hs] at h
    exact ⟨hs, (Host.Outcome.next.inj h).symm⟩
  · simp [advance_of_not_hasNext hs] at h

theorem whenPassed_of_passes {c : Cond} {s : State} {body : Result} (h : Passes c s) : whenPassed c s body = body :=
  if_pos h

theorem whenPassed_of_not_passes {c : Cond} {s : State} {body : Result} (h : ¬ Passes c s) :
    whenPassed c s body = advance s :=
  if_neg h

theorem whenPassed_next {c : Cond} {s t : State} {body : Result} (h : whenPassed c s body = .next t) :
    (Passes c s ∧ body = .next t) ∨ (¬ Passes c s ∧ HasNext s ∧ t = { s with pc := s.pc + 4#32 }) := by
  by_cases hc : Passes c s
  · exact .inl ⟨hc, by rwa [whenPassed_of_passes hc] at h⟩
  · exact .inr ⟨hc, advance_next (by rwa [whenPassed_of_not_passes hc] at h)⟩

theorem wordAligned_iff {v : Word} : wordAligned v = true ↔ v.toNat % 4 = 0 := by
  simp [wordAligned, ← BitVec.toNat_inj, BitVec.extractLsb'_toNat]

theorem branchTo_next {v : Word} {s t : State} (h : branchTo v s = .next t) :
    wordAligned v = true ∧ t = { s with pc := v } := by
  unfold branchTo at h
  split at h
  · next hv => exact ⟨hv, (Host.Outcome.next.inj h).symm⟩
  · cases h

theorem exceptionReturn_next {v : Word} {s t : State} (h : exceptionReturn v s = .next t) :
    ∃ e p, s.cpsr.m = .exc e ∧ (s.spsr.get e).t = false ∧ Psr.restore (s.spsr.get e) = some p ∧
      wordAligned v = true ∧ t = { s with cpsr := p, pc := v } := by
  unfold exceptionReturn at h
  split at h
  · next e hm =>
    split at h
    · cases h
    · next ht =>
      split at h
      · cases h
      · next p hp =>
        split at h
        · next hv => exact ⟨e, p, hm, by simpa using ht, hp, hv, (Host.Outcome.next.inj h).symm⟩
        · cases h
  · cases h

/-! ## Exceptions (60_exceptions.md R360) -/

theorem takeException_of_room {e : Exc} {s : State} (h : s.pc.toNat + e.link < 2 ^ 32) :
    takeException e s = .next (enterException e s) :=
  if_pos h

theorem takeException_next {e : Exc} {s t : State} (h : takeException e s = .next t) :
    s.pc.toNat + e.link < 2 ^ 32 ∧ t = enterException e s := by
  unfold takeException at h
  split at h
  · next hs => exact ⟨hs, (Host.Outcome.next.inj h).symm⟩
  · cases h

/-! ## Accesses (20_memory.md R72, R73, R76) -/

theorem touches_eq_false {rs : List AddrRange} {a n : Nat} :
    touches rs a n = false ↔ ∀ k < n, ∀ r ∈ rs, r.holds (a + k) = false := by
  simp [touches]

theorem accessRefusal_eq_none {s : State} {addr : Word} {n : Nat} :
    accessRefusal s addr n = none ↔ Reachable s addr n := by
  unfold accessRefusal Reachable
  split
  · simp_all
  · split <;> simp_all

theorem memRead_of_canRead {s : State} {addr : Word} {sz : Size} {user : Bool} (h : CanRead s addr sz.bytes user) :
    memRead s addr sz user = .done (loadBytes s.mem addr.toNat sz.bytes) := by
  simp [memRead, accessRefusal_eq_none.mpr h.1, h.2]

theorem memRead_done {s : State} {addr : Word} {sz : Size} {user : Bool} {v : Word}
    (h : memRead s addr sz user = .done v) :
    CanRead s addr sz.bytes user ∧ v = loadBytes s.mem addr.toNat sz.bytes := by
  unfold memRead at h
  split at h
  · cases h
  · next hr =>
    split at h
    · cases h
    · next ha => exact ⟨⟨accessRefusal_eq_none.mp hr, by simpa using ha⟩, (Access.done.inj h).symm⟩

theorem memRead_abort {s : State} {addr : Word} {sz : Size} {user : Bool} :
    memRead s addr sz user = .abort ↔
      Reachable s addr sz.bytes ∧ memAborts s.platform addr.toNat sz.bytes .read user = true := by
  unfold memRead
  rw [← accessRefusal_eq_none]
  split
  · simp_all
  · split <;> simp_all

theorem memWrite_of_canWrite {s : State} {addr : Word} {sz : Size} {v : Word} {user : Bool}
    (h : CanWrite s addr sz.bytes user) :
    memWrite s addr sz v user = .done { s with mem := storeBytes s.mem addr.toNat v sz.bytes } := by
  have hc : ¬ touches s.platform.codeRegion addr.toNat sz.bytes = true := h.2.1
  simp [memWrite, accessRefusal_eq_none.mpr h.1, hc, h.2.2]

theorem memWrite_done {s t : State} {addr : Word} {sz : Size} {v : Word} {user : Bool}
    (h : memWrite s addr sz v user = .done t) :
    CanWrite s addr sz.bytes user ∧ t = { s with mem := storeBytes s.mem addr.toNat v sz.bytes } := by
  unfold memWrite at h
  split at h
  · cases h
  · next hr =>
    split at h
    · cases h
    · next hc =>
      split at h
      · cases h
      · next ha => exact ⟨⟨accessRefusal_eq_none.mp hr, hc, by simpa using ha⟩, (Access.done.inj h).symm⟩

theorem memWrite_abort {s : State} {addr : Word} {sz : Size} {v : Word} {user : Bool} :
    memWrite s addr sz v user = .abort ↔
      Reachable s addr sz.bytes ∧ ¬ InCode s addr.toNat sz.bytes ∧
        memAborts s.platform addr.toNat sz.bytes .write user = true := by
  unfold memWrite InCode
  rw [← accessRefusal_eq_none]
  split
  · simp_all
  · split
    · simp_all
    · split <;> simp_all

/-- An access that is reached ends inside the address space. -/
theorem Reachable.fits {s : State} {addr : Word} {sz : Size} (h : Reachable s addr sz.bytes) :
    addr.toNat + sz.bytes ≤ 2 ^ 32 := by
  have h1 := h.1
  have h2 := addr.isLt
  cases sz <;> simp only [Size.bytes] at h1 ⊢ <;> omega

/-! ## Data processing (40_conditions_operand2.md R157) -/

/-- Everything the skeleton does when the condition passes. -/
theorem finishDataProcessing_next {sf : Bool} {rd : Option Reg} {out : AluOut} {s t : State}
    (h : finishDataProcessing sf rd out s = .next t) :
    (rd = none ∧ HasNext s ∧ t = { setFlags out s with pc := s.pc + 4#32 }) ∨
    (∃ n, rd = some (.r n) ∧ HasNext s ∧
      t = { writeGeneral (if sf then setFlags out s else s) n out.value with pc := s.pc + 4#32 }) ∨
    (rd = some .pc ∧ sf = false ∧ wordAligned out.value = true ∧ t = { s with pc := out.value }) ∨
    (rd = some .pc ∧ sf = true ∧ exceptionReturn out.value s = .next t) := by
  unfold finishDataProcessing at h
  split at h
  · obtain ⟨hn, rfl⟩ := advance_next h
    exact .inl ⟨rfl, hn, rfl⟩
  · next n =>
    obtain ⟨hn, rfl⟩ := advance_next h
    refine .inr (.inl ⟨n, rfl, ?_, ?_⟩)
    · cases sf <;> exact hn
    · cases sf <;> rfl
  · cases sf
    · obtain ⟨hv, rfl⟩ := branchTo_next h
      exact .inr (.inr (.inl ⟨rfl, rfl, hv, rfl⟩))
    · exact .inr (.inr (.inr ⟨rfl, rfl, h⟩))

theorem dataProcessing_next {op : AluOp} {c : Cond} {sf : Bool} {rd rn : Option Reg} {o : Operand2} {s t : State}
    (h : dataProcessing op c sf rd rn o s = .next t) :
    (¬ Passes c s ∧ HasNext s ∧ t = { s with pc := s.pc + 4#32 }) ∨
    (Passes c s ∧ o.forbidsPc (rd.toList ++ rn.toList) = false ∧
      finishDataProcessing sf rd
        (alu op (firstOperand rn s) (shifterOperand o s).1 (shifterOperand o s).2 s.cpsr.c s.cpsr.v) s = .next t) := by
  rcases whenPassed_next h with ⟨hc, h⟩ | h
  · split at h
    · cases h
    · next hf => exact .inr ⟨hc, by simpa using hf, h⟩
  · exact .inl h

/-! ## Single transfers (46_load_store_single.md R273, R274, R287) -/

theorem transferRefusal_eq_none {pcRule : Option Refusal} {ix : Indexing} {rn rd : Reg} {o : Offset} :
    transferRefusal pcRule ix rn rd o = none ↔
      o.register? ≠ some .pc ∧
        (ix.writesBack = true → rn ≠ .pc ∧ rd ≠ rn ∧ o.register? ≠ some rn) ∧ (rd = .pc → pcRule = none) := by
  unfold transferRefusal
  cases ix.writesBack <;> (repeat' split) <;> simp_all

theorem abortTransfer_next {ix : Indexing} {rn : Reg} {newBase : Word} {s t : State}
    (h : abortTransfer ix rn newBase s = .next t) :
    t = enterException .dataAbort s ∨ t = enterException .dataAbort (writeBack ix rn newBase s) := by
  unfold abortTransfer at h
  split at h
  · exact .inl (takeException_next h).2
  · exact .inr (takeException_next h).2

/-- What a write-back can do: nothing, or write one register. -/
theorem writeBack_cases (ix : Indexing) (rn : Reg) (v : Word) (s : State) :
    writeBack ix rn v s = s ∨ ∃ n, rn = .r n ∧ ix.writesBack = true ∧ writeBack ix rn v s = writeGeneral s n v := by
  unfold writeBack
  split
  · next h =>
    cases rn with
    | r n => exact .inr ⟨n, rfl, h, rfl⟩
    | pc => exact .inl rfl
  · exact .inl rfl

theorem finishLoad_next {rd : Reg} {data : Word} {s t : State} (h : finishLoad rd data s = .next t) :
    (∃ n, rd = .r n ∧ HasNext s ∧ t = { writeGeneral s n data with pc := s.pc + 4#32 }) ∨
    (rd = .pc ∧ wordAligned data = true ∧ t = { s with pc := data }) := by
  unfold finishLoad at h
  split at h
  · next n =>
    obtain ⟨hn, rfl⟩ := advance_next h
    exact .inl ⟨n, rfl, hn, rfl⟩
  · obtain ⟨hv, rfl⟩ := branchTo_next h
    exact .inr ⟨rfl, hv, rfl⟩

theorem loadSingle_next {c : Cond} {sz : Size} {signed forceUser : Bool} {pcRule : Option Refusal} {ix : Indexing}
    {up : Bool} {rd rn : Reg} {o : Offset} {s t : State}
    (h : loadSingle c sz signed forceUser pcRule ix up rd rn o s = .next t) :
    (¬ Passes c s ∧ HasNext s ∧ t = { s with pc := s.pc + 4#32 }) ∨
    (Passes c s ∧ transferRefusal pcRule ix rn rd o = none ∧
      ((memRead s (transferAddress ix up rn o s).1 sz (forceUser || userMode s) = .abort ∧
          abortTransfer ix rn (transferAddress ix up rn o s).2 s = .next t) ∨
        ∃ data, memRead s (transferAddress ix up rn o s).1 sz (forceUser || userMode s) = .done data ∧
          finishLoad rd (extendLoaded sz signed data)
            (writeBack ix rn (transferAddress ix up rn o s).2 s) = .next t)) := by
  rcases whenPassed_next h with ⟨hc, h⟩ | h
  · split at h
    · cases h
    · next hr =>
      dsimp only at h
      split at h
      · cases h
      · next ha => exact .inr ⟨hc, hr, .inl ⟨ha, h⟩⟩
      · next data ha => exact .inr ⟨hc, hr, .inr ⟨data, ha, h⟩⟩
  · exact .inl h

theorem storeSingle_next {c : Cond} {sz : Size} {forceUser : Bool} {pcRule : Option Refusal} {ix : Indexing}
    {up : Bool} {rd rn : Reg} {o : Offset} {s t : State}
    (h : storeSingle c sz forceUser pcRule ix up rd rn o s = .next t) :
    (¬ Passes c s ∧ HasNext s ∧ t = { s with pc := s.pc + 4#32 }) ∨
    (Passes c s ∧ transferRefusal pcRule ix rn rd o = none ∧ ∃ v, storeValue rd s = some v ∧
      ((memWrite s (transferAddress ix up rn o s).1 sz v (forceUser || userMode s) = .abort ∧
          abortTransfer ix rn (transferAddress ix up rn o s).2 s = .next t) ∨
        ∃ u, memWrite s (transferAddress ix up rn o s).1 sz v (forceUser || userMode s) = .done u ∧
          advance (writeBack ix rn (transferAddress ix up rn o s).2 u) = .next t)) := by
  rcases whenPassed_next h with ⟨hc, h⟩ | h
  · split at h
    · cases h
    · next hr =>
      split at h
      · cases h
      · next v hv =>
        dsimp only at h
        split at h
        · cases h
        · next ha => exact .inr ⟨hc, hr, v, hv, .inl ⟨ha, h⟩⟩
        · next u ha => exact .inr ⟨hc, hr, v, hv, .inr ⟨u, ha, h⟩⟩
  · exact .inl h

/-! ## Swaps (48_swap.md R330, R331) -/

theorem swapMemory_next {c : Cond} {sz : Size} {rd rm rn : Reg} {s t : State}
    (h : swapMemory c sz rd rm rn s = .next t) :
    (¬ Passes c s ∧ HasNext s ∧ t = { s with pc := s.pc + 4#32 }) ∨
    (Passes c s ∧ ∃ d m n, rd = .r d ∧ rm = .r m ∧ rn = .r n ∧ n ≠ d ∧ n ≠ m ∧
      (takeException .dataAbort s = .next t ∨
        ∃ old u, memRead s (readGeneral s n) sz (userMode s) = .done old ∧
          memWrite s (readGeneral s n) sz (readGeneral s m) (userMode s) = .done u ∧
          advance (writeGeneral u d old) = .next t)) := by
  rcases whenPassed_next h with ⟨hc, h⟩ | h
  · rcases rd with d | _ <;> rcases rm with m | _ <;> rcases rn with n | _ <;> try cases h
    dsimp only at h
    split at h
    · cases h
    · next hne =>
      obtain ⟨hd, hm⟩ := not_or.mp hne
      refine .inr ⟨hc, d, m, n, rfl, rfl, rfl, hd, hm, ?_⟩
      split at h
      · cases h
      · exact .inl h
      · next old hold =>
        split at h
        · cases h
        · exact .inl h
        · next u hu => exact .inr ⟨old, u, hold, hu, h⟩
  · exact .inl h

end Sys2Proof.Machine
end

