-- ==== Sys2Proof/Laws/Block.lean ====
section
/-! SUPPORT. What the operations of the block transfers can do (47_load_store_multiple.md R305, R306, R313). -/

namespace Sys2Proof.Machine

open Sys2Proof.Safety

/-! ## Writing loaded or unspecified values into registers -/

section Banks

variable (bank : BlockBank) (s : State) (n : Fin 15) (v : Word)

@[simp] theorem writeBank_pc : (writeBank bank s n v).pc = s.pc := by cases bank <;> rfl
@[simp] theorem writeBank_cpsr : (writeBank bank s n v).cpsr = s.cpsr := by cases bank <;> rfl
@[simp] theorem writeBank_spsr : (writeBank bank s n v).spsr = s.spsr := by cases bank <;> rfl
@[simp] theorem writeBank_mem : (writeBank bank s n v).mem = s.mem := by cases bank <;> rfl
@[simp] theorem writeBank_afterUserTransfer : (writeBank bank s n v).afterUserTransfer = s.afterUserTransfer := by
  cases bank <;> rfl
@[simp] theorem writeBank_inputs : (writeBank bank s n v).inputs = s.inputs := by cases bank <;> rfl
@[simp] theorem writeBank_platform : (writeBank bank s n v).platform = s.platform := by cases bank <;> rfl
@[simp] theorem writeBank_draws : (writeBank bank s n v).draws = s.draws := by cases bank <;> rfl

end Banks

theorem writeBank_eq (bank : BlockBank) (s : State) (n : Fin 15) (v : Word) :
    writeBank bank s n v = { s with regs := s.regs.set (blockReg bank s.cpsr.m n) v } := by
  cases bank <;> rfl

theorem readBank_eq (bank : BlockBank) (s : State) (n : Fin 15) :
    readBank bank s n = s.regs.get (blockReg bank s.cpsr.m n) := by
  cases bank <;> rfl

theorem blockReg_injective (bank : BlockBank) (m : Mode) {a b : Fin 15} (h : blockReg bank m a = blockReg bank m b) :
    a = b := by
  cases bank with
  | current => exact physReg_injective m h
  | userBank => exact PhysReg.user.inj h

/-- `writeList` writes registers and nothing else. -/
theorem writeList_eq (bank : BlockBank) (s : State) (vs : List (Reg × Word)) :
    writeList bank s vs = { s with regs := (writeList bank s vs).regs } := by
  induction vs generalizing s with
  | nil => rfl
  | cons p rest ih =>
    obtain ⟨r | _, v⟩ := p
    · rw [writeList, ih, writeBank_eq]
    · rw [writeList, ih]

/-- A register no pair names keeps its value. -/
theorem writeList_get_other {bank : BlockBank} {s : State} {vs : List (Reg × Word)} {p : PhysReg}
    (h : ∀ n v, (Reg.r n, v) ∈ vs → blockReg bank s.cpsr.m n ≠ p) :
    (writeList bank s vs).regs.get p = s.regs.get p := by
  induction vs generalizing s with
  | nil => rfl
  | cons q rest ih =>
    obtain ⟨r | _, v⟩ := q
    · rw [writeList, ih fun n w hn => by simpa using h n w (by simp [hn]), writeBank_eq]
      exact RegFile.get_set_other _ _ (h r v (by simp)).symm
    · rw [writeList, ih fun n w hn => h n w (by simp [hn])]

/-- `scrambleList` writes registers, counts its draws, and does nothing else. -/
theorem scrambleList_eq (bank : BlockBank) (s : State) (k : Nat) (regs : List Reg) :
    scrambleList bank s k regs =
      { s with regs := (scrambleList bank s k regs).regs, draws := (scrambleList bank s k regs).draws } := by
  induction regs generalizing s k with
  | nil => rfl
  | cons r rest ih =>
    cases r with
    | r n => rw [scrambleList, ih, writeBank_eq]
    | pc => rw [scrambleList, ih]

/-- A register that is not listed keeps its value. -/
theorem scrambleList_get_other {bank : BlockBank} {s : State} {k : Nat} {regs : List Reg} {p : PhysReg}
    (h : ∀ n, Reg.r n ∈ regs → blockReg bank s.cpsr.m n ≠ p) :
    (scrambleList bank s k regs).regs.get p = s.regs.get p := by
  induction regs generalizing s k with
  | nil => rfl
  | cons r rest ih =>
    cases r with
    | r n =>
      rw [scrambleList, ih fun m hm => by simpa using h m (by simp [hm]), writeBank_eq]
      exact RegFile.get_set_other _ _ (h n (by simp)).symm
    | pc => rw [scrambleList, ih fun m hm => h m (by simp [hm])]

/-! ## The list -/

theorem mem_listedRegs_r {list : BitVec 16} {n : Fin 15} :
    Reg.r n ∈ listedRegs list ↔ list.getLsbD n.val = true := by
  have hall : Reg.r n ∈ allRegs := by revert n; decide
  simp [listedRegs, List.mem_filter, hall, regNumber]

theorem mem_listedRegs_pc {list : BitVec 16} : Reg.pc ∈ listedRegs list ↔ list.getLsbD 15 = true := by
  have hall : Reg.pc ∈ allRegs := by decide
  simp [listedRegs, List.mem_filter, hall, regNumber]

/-- The number of listed registers (47_load_store_multiple.md R301). -/
theorem length_listedRegs (list : BitVec 16) : (listedRegs list).length = slotOf list 16 := by
  rw [listedRegs, ← List.countP_eq_length_filter, slotOf]
  rw [show List.range 16 = allRegs.map regNumber from rfl, List.countP_map]
  rfl

/-! ## The transfers -/

/-- The pairs an LDM loads are the listed registers, in order. -/
theorem loadList_done_map {s : State} {a : Nat} {regs : List Reg} {vs : List (Reg × Word)}
    (h : loadList s a regs = .done vs) : vs.map Prod.fst = regs := by
  induction regs generalizing a vs with
  | nil => cases h; rfl
  | cons r rest ih =>
    simp only [loadList] at h
    split at h <;> try cases h
    split at h <;> try cases h
    next hv => simp [ih hv]

/-- The `k`-th pair holds the word at `a + 4 k`. -/
theorem loadList_done_getElem {s : State} {a : Nat} {regs : List Reg} {vs : List (Reg × Word)}
    (h : loadList s a regs = .done vs) {k : Nat} (hk : k < vs.length) :
    CanRead s (BitVec.ofNat 32 (a + 4 * k)) 4 (userMode s) ∧
      vs[k].2 = wordAt s.mem (BitVec.ofNat 32 (a + 4 * k)).toNat := by
  induction regs generalizing a vs k with
  | nil => cases h; exact absurd hk (Nat.not_lt_zero k)
  | cons r rest ih =>
    simp only [loadList] at h
    split at h <;> try cases h
    next v hv =>
    split at h <;> try cases h
    next vs' hvs =>
    cases k with
    | zero =>
      obtain ⟨hr, rfl⟩ := memRead_done hv
      exact ⟨hr, loadBytes_four _ _⟩
    | succ k =>
      have := ih hvs (k := k) (by simpa using hk)
      rwa [show a + 4 + 4 * k = a + 4 * (k + 1) by omega] at this

/-- An LDM's loads succeed exactly when every word can be read. -/
theorem loadList_of_canRead {s : State} {a : Nat} {regs : List Reg}
    (h : ∀ k < regs.length, CanRead s (BitVec.ofNat 32 (a + 4 * k)) 4 (userMode s)) :
    ∃ vs, loadList s a regs = .done vs := by
  induction regs generalizing a with
  | nil => exact ⟨[], rfl⟩
  | cons r rest ih =>
    obtain ⟨vs, hvs⟩ := ih (a := a + 4) fun k hk => by
      have := h (k + 1) (by simpa using hk)
      rwa [show a + 4 + 4 * k = a + 4 * (k + 1) by omega]
    have h0 := memRead_of_canRead (s := s) (addr := BitVec.ofNat 32 a) (sz := .word) (h 0 (by simp))
    exact ⟨_, by rw [loadList, h0]; simp only [hvs]; rfl⟩

/-- The stores of an STM change memory and nothing else, keep its canonical form, and leave `CODE_REGION`. -/
theorem storeList_done {bank : BlockBank} {s t u : State} {a : Nat} {regs : List Reg}
    (h : storeList bank s t a regs = .done u) :
    u = { t with mem := u.mem } ∧ (Memory.wf t.mem = true → Memory.wf u.mem = true) ∧
      ∀ b, InCode t b 1 → readByte u.mem b = readByte t.mem b := by
  induction regs generalizing t a with
  | nil => cases h; exact ⟨rfl, id, fun _ _ => rfl⟩
  | cons r rest ih =>
    simp only [storeList] at h
    split at h <;> try cases h
    split at h <;> try cases h
    next hw =>
    obtain ⟨hc, rfl⟩ := memWrite_done hw
    obtain ⟨he, hwf, hcode⟩ := ih h
    refine ⟨by rw [he], fun hm => hwf (Memory.wf_storeBytes hm (Reachable.fits (sz := .word) hc.1)), fun b hb => ?_⟩
    rw [hcode b hb]
    refine readByte_storeBytes_outside _ _ ?_
    by_contra hn
    refine hc.2.1 ?_
    obtain ⟨k, hk⟩ : ∃ k, b = (BitVec.ofNat 32 a).toNat + k ∧ k < Size.word.bytes :=
      ⟨b - (BitVec.ofNat 32 a).toNat, by simp only [Size.bytes] at hn ⊢; omega⟩
    simp only [InCode, touches, List.any_eq_true, List.mem_range] at hb ⊢
    obtain ⟨j, hj, hr⟩ := hb
    exact ⟨k, hk.2, by simpa [show j = 0 by omega, hk.1] using hr⟩

/-- The same of an STM that aborts on the way. -/
theorem storeList_abort {bank : BlockBank} {s t u : State} {a : Nat} {regs : List Reg}
    (h : storeList bank s t a regs = .abort u) :
    u = { t with mem := u.mem } ∧ (Memory.wf t.mem = true → Memory.wf u.mem = true) ∧
      ∀ b, InCode t b 1 → readByte u.mem b = readByte t.mem b := by
  induction regs generalizing t a with
  | nil => cases h
  | cons r rest ih =>
    simp only [storeList] at h
    split at h <;> try cases h
    split at h
    · cases h
    · cases h; exact ⟨rfl, id, fun _ _ => rfl⟩
    next v _ t' hw =>
    obtain ⟨hc, rfl⟩ := memWrite_done hw
    obtain ⟨he, hwf, hcode⟩ := ih h
    refine ⟨by rw [he], fun hm => hwf (Memory.wf_storeBytes hm (Reachable.fits (sz := .word) hc.1)), fun b hb => ?_⟩
    rw [hcode b hb]
    refine readByte_storeBytes_outside _ _ ?_
    by_contra hn
    refine hc.2.1 ?_
    obtain ⟨k, hk⟩ : ∃ k, b = (BitVec.ofNat 32 a).toNat + k ∧ k < Size.word.bytes :=
      ⟨b - (BitVec.ofNat 32 a).toNat, by simp only [Size.bytes] at hn ⊢; omega⟩
    simp only [InCode, touches, List.any_eq_true, List.mem_range] at hb ⊢
    obtain ⟨j, hj, hr⟩ := hb
    exact ⟨k, hk.2, by simpa [show j = 0 by omega, hk.1] using hr⟩

theorem blockRefusal_eq_none {rn : Reg} {list : BitVec 16} {s : State} :
    blockRefusal rn list s = none ↔ list ≠ 0#16 ∧ rn ≠ .pc ∧ wordAligned (readReg s rn) = true := by
  unfold blockRefusal
  (repeat' split) <;> simp_all

/-- Everything an LDM can do up to its end. -/
theorem loadBlock_next {c : Cond} {mode : BlockMode} {wb : Bool} {rn : Reg} {list : BitVec 16} {bank : BlockBank}
    {special : Option Refusal} {s t : State} {finish : List (Reg × Word) → State → Result}
    (h : loadBlock c mode wb rn list bank special s finish = .next t) :
    (¬ Passes c s ∧ HasNext s ∧ t = { s with pc := s.pc + 4#32 }) ∨
    (Passes c s ∧ ∃ n, rn = .r n ∧ blockRefusal rn list s = none ∧ special = none ∧
      (wb && (listedRegs list).contains rn) = false ∧
      ((abortLoadBlock bank wb n (blockNewBase mode (readGeneral s n) (listedRegs list).length)
          (listedRegs list) s = .next t) ∨
        ∃ vs, loadList s (blockStart mode (readGeneral s n).toNat (listedRegs list).length).toNat
            (listedRegs list) = .done vs ∧
          finish vs (writeList bank
            (if wb then writeGeneral s n (blockNewBase mode (readGeneral s n) (listedRegs list).length) else s)
            vs) = .next t)) := by
  rcases whenPassed_next h with ⟨hc, h⟩ | h
  · rcases rn with n | _
    case pc =>
      split at h
      · cases h
      · cases h
      · next heq => cases heq
    split at h
    · cases h
    · next heq => cases heq
    · next hr heq =>
      cases heq
      dsimp only at h
      split at h
      · cases h
      · next hw =>
        refine .inr ⟨hc, n, rfl, hr, ?_⟩
        split at h
        · cases h
        · refine ⟨rfl, by simpa using hw, ?_⟩
          split at h
          · cases h
          · split at h
            · cases h
            · exact .inl h
            · next vs hvs => exact .inr ⟨vs, hvs, h⟩
  · exact .inl h

/-- Everything an STM can do up to its end. -/
theorem storeBlock_next {c : Cond} {mode : BlockMode} {wb : Bool} {rn : Reg} {list : BitVec 16} {bank : BlockBank}
    {special : Option Refusal} {s t : State} {finish : State → Result}
    (h : storeBlock c mode wb rn list bank special s finish = .next t) :
    (¬ Passes c s ∧ HasNext s ∧ t = { s with pc := s.pc + 4#32 }) ∨
    (Passes c s ∧ ∃ n, rn = .r n ∧ blockRefusal rn list s = none ∧ special = none ∧
      ((∃ u, storeList bank s s (blockStart mode (readGeneral s n).toNat (listedRegs list).length).toNat
            (listedRegs list) = .abort u ∧
          abortStoreBlock wb n (blockNewBase mode (readGeneral s n) (listedRegs list).length) u = .next t) ∨
        ∃ u, storeList bank s s (blockStart mode (readGeneral s n).toNat (listedRegs list).length).toNat
            (listedRegs list) = .done u ∧
          finish (if wb then writeGeneral u n (blockNewBase mode (readGeneral s n) (listedRegs list).length)
            else u) = .next t)) := by
  rcases whenPassed_next h with ⟨hc, h⟩ | h
  · rcases rn with n | _
    case pc =>
      split at h
      · cases h
      · cases h
      · next heq => cases heq
    split at h
    · cases h
    · next heq => cases heq
    · next hr heq =>
      cases heq
      dsimp only at h
      split at h
      · cases h
      · split at h
        · cases h
        · split at h
          · cases h
          · refine .inr ⟨hc, n, rfl, hr, rfl, ?_⟩
            split at h
            · cases h
            · split at h
              · cases h
              · next u hu => exact .inl ⟨u, hu, h⟩
              · next u hu => exact .inr ⟨u, hu, h⟩
  · exact .inl h

end Sys2Proof.Machine
end

