-- ==== Sys2Proof/Laws/Encoding.lean ====
section
/-! SUPPORT. The laws of fields, codes and rows that the encoding statements rest on (30_encoding.md R100 to R130). -/

namespace Sys2Proof

/-! ## Fields -/

@[simp] theorem getLsbD_fieldAt (lo n i : Nat) (w : Word) :
    (fieldAt lo n w).getLsbD i = (decide (i < n) && w.getLsbD (lo + i)) := by
  simp [fieldAt]

@[simp] theorem getLsbD_place (lo i : Nat) {n : Nat} (v : BitVec n) :
    (place lo v).getLsbD i = (decide (i < 32) && decide (lo ≤ i) && v.getLsbD (i - lo)) := by
  by_cases h : i < 32
  · by_cases hl : i < lo
    · simp [place, h, hl, show ¬ lo ≤ i by omega]
    · simp [place, h, hl, show lo ≤ i by omega]
  · simp [place, h]

@[simp] theorem getLsbD_placeFlag (lo i : Nat) (v : Bool) :
    (placeFlag lo v).getLsbD i = (decide (i < 32) && decide (i = lo) && v) := by
  rw [placeFlag, getLsbD_place]
  by_cases h : i = lo
  · subst h; simp
  · by_cases hl : lo ≤ i
    · simp [h, hl, BitVec.getLsbD_of_ge (BitVec.ofBool v) (i - lo) (by omega)]
    · simp [h, hl]

@[simp] theorem flagAt_eq (lo : Nat) (w : Word) : flagAt lo w = w.getLsbD lo := rfl

/-- The two nibbles of an 8-bit offset (30_encoding.md R116). -/
theorem getLsbD_placeOffset8 (v : BitVec 8) (i : Nat) :
    (placeOffset8 v).getLsbD i =
      ((decide (i < 4) && v.getLsbD i) || (decide (8 ≤ i) && decide (i < 12) && v.getLsbD (i - 4))) := by
  simp only [placeOffset8, BitVec.getLsbD_or, getLsbD_place, BitVec.getLsbD_extractLsb']
  by_cases h4 : i < 4
  · simp [h4, show i < 32 by omega, show ¬ 8 ≤ i by omega]
  · by_cases h8 : 8 ≤ i
    · by_cases h12 : i < 12
      · simp [h4, h8, h12, show i < 32 by omega, show i - 8 < 4 by omega, show 4 + (i - 8) = i - 4 by omega]
      · simp [h4, h8, h12, show ¬ i - 8 < 4 by omega]
    · simp [h4, h8]

/-! ## Codes of the enumerated operands -/

@[simp] theorem Cond.ofCode_code (c : Cond) : Cond.ofCode c.code = some c := by cases c <;> rfl

theorem Cond.code_ofCode {b : BitVec 4} {c : Cond} (h : Cond.ofCode b = some c) : c.code = b := by
  revert b c
  decide

@[simp] theorem Reg.ofCode_code (r : Reg) : Reg.ofCode r.code = r := by
  cases r with
  | r n => revert n; decide
  | pc => rfl

@[simp] theorem Reg.code_ofCode (b : BitVec 4) : (Reg.ofCode b).code = b := by
  revert b
  decide

@[simp] theorem Shift.ofCode_code (sh : Shift) : Shift.ofCode sh.code = sh := by cases sh <;> rfl

@[simp] theorem Shift.code_ofCode (b : BitVec 2) : (Shift.ofCode b).code = b := by
  revert b
  decide

@[simp] theorem BlockMode.ofCode_code (m : BlockMode) : BlockMode.ofCode m.code = m := by cases m <;> rfl

@[simp] theorem BlockMode.code_ofCode (b : BitVec 2) : (BlockMode.ofCode b).code = b := by
  revert b
  decide

/-! ## Words and bytes (20_memory.md R71) -/

@[simp] theorem wordOfBytes_bytesOfWord (w : Word) :
    wordOfBytes (w.extractLsb' 0 8) (w.extractLsb' 8 8) (w.extractLsb' 16 8) (w.extractLsb' 24 8) = w := by
  refine BitVec.eq_of_getLsbD_eq fun i hi => ?_
  simp only [wordOfBytes, BitVec.getLsbD_append, BitVec.getLsbD_extractLsb']
  by_cases h0 : i < 8
  · simp [h0]
  by_cases h1 : i < 16
  · simp [h0, show i - 8 < 8 by omega, show 8 + (i - 8) = i by omega]
  by_cases h2 : i < 24
  · simp [h0, show ¬ i - 8 < 8 by omega, show i - 8 - 8 < 8 by omega, show 16 + (i - 8 - 8) = i by omega]
  · simp [h0, show ¬ i - 8 < 8 by omega, show ¬ i - 8 - 8 < 8 by omega, show i - 8 - 8 - 8 < 8 by omega,
      show 24 + (i - 8 - 8 - 8) = i by omega]

@[simp] theorem decode_bytesOfWord (w : Word) : decode (bytesOfWord w) = decodeWord w := by
  simp [decode, bytesOfWord]

/-! ## Rows -/

/-- Two rows disagree on a bit both fix. -/
def Row.clashes (r q : Row) : Bool := (r.pattern ^^^ q.pattern) &&& r.mask &&& q.mask != 0#32

theorem table_clashes : table.Pairwise (fun r q => r.clashes q = true) := by decide

end Sys2Proof
end

