-- ==== Sys2Proof/Laws/Forms.lean ====
section
/-! SUPPORT. What executing an instruction of a family is, in terms of the family's form: the statements about a family
reach its instructions through these. -/

namespace Sys2Proof.Machine

open Sys2Proof.Safety

/-- The sixteen data-processing instructions, three operand forms each (40_conditions_operand2.md R157). -/
theorem exec_of_dpForm {i : Instr} {f : DpForm} (h : dpForm? i = some f) (s : State) :
    exec i s = dataProcessing f.op f.cond f.sf f.rd f.rn f.o s := by
  cases i <;> cases h <;> rfl

/-- What `Rd` = R15 gives in a single transfer (46_load_store_single.md R273): allowed to the word forms without `T`. -/
def pcRuleOf (f : TransferForm) : Option Refusal :=
  if f.size = .word ∧ f.forceUser = false then none else some .r15Operand

/-- The single loads (46_load_store_single.md R274). -/
theorem exec_of_loadForm {i : Instr} {f : TransferForm} (h : loadForm? i = some f) (s : State) :
    exec i s = loadSingle f.cond f.size f.signed f.forceUser (pcRuleOf f) f.ix f.up f.rd f.rn f.off s := by
  cases i <;> cases h <;> rfl

/-- The single stores (46_load_store_single.md R274). -/
theorem exec_of_storeForm {i : Instr} {f : TransferForm} (h : storeForm? i = some f) (s : State) :
    exec i s = storeSingle f.cond f.size f.forceUser (pcRuleOf f) f.ix f.up f.rd f.rn f.off s := by
  cases i <;> cases h <;> rfl

end Sys2Proof.Machine
end

