-- ==== Sys2Proof/Tests/Slice0.lean ====
section
/-! SUPPORT. The model's own tests: ill-formed instructions, one written-out word for every row of the opcode table, one
step of some instructions against spec/95_test_vectors.md, and a witness for the hypotheses of every statement. -/

namespace Sys2Proof.Tests

open Sys2Proof.Machine Sys2Proof.Safety

-- one theorem after the other: in parallel, their kernel checks ask for more threads than the memory limit allows
set_option Elab.async false

/-! ## Ill-formed instructions: the two checks of WellFormed -/

theorem test_ldm3_without_r15_is_ill_formed :
    WellFormed (.ldm3 .al .ia true (.r 13) 0x0001#16) = false := by decide

theorem test_ldm2_with_r15_is_ill_formed :
    WellFormed (.ldm2 .al .ia (.r 13) 0x8001#16) = false := by decide

/-! ## One word for every row, in the row's own fields (30_encoding.md R103 to R120, R127, R128) -/

theorem test_decode_mov :
    decodeWord 0b0010_0011101_1_0000_0100_1101_10000100#32 =
      .ok (.movImm .cs true (.r 4) 13#4 132#8) ∧
    decodeWord 0b1110_0001101_0_0000_1110_01010_01_0_0010#32 =
      .ok (.movShiftImm .al false (.r 14) (.r 2) .lsr 10#5) ∧
    decodeWord 0b1110_0001101_1_0000_0111_1011_0_10_1_0001#32 =
      .ok (.movShiftReg .al true (.r 7) (.r 1) .asr (.r 11)) := by decide +kernel

theorem test_decode_mvn :
    decodeWord 0b1110_0011111_0_0000_0001_1110_10001000#32 =
      .ok (.mvnImm .al false (.r 1) 14#4 136#8) ∧
    decodeWord 0b1100_0001111_1_0000_1100_01111_10_0_1011#32 =
      .ok (.mvnShiftImm .gt true (.r 12) (.r 11) .asr 15#5) ∧
    decodeWord 0b1110_0001111_0_0000_0101_1001_0_10_1_1100#32 =
      .ok (.mvnShiftReg .al false (.r 5) (.r 12) .asr (.r 9)) := by decide +kernel

theorem test_decode_add :
    decodeWord 0b1110_0010100_1_0101_0111_1001_11111111#32 =
      .ok (.addImm .al true (.r 7) (.r 5) 9#4 255#8) ∧
    decodeWord 0b1110_0000100_0_0101_0100_10001_10_0_0110#32 =
      .ok (.addShiftImm .al false (.r 4) (.r 5) (.r 6) .asr 17#5) ∧
    decodeWord 0b1101_0000100_1_1010_1011_1101_0_10_1_0111#32 =
      .ok (.addShiftReg .le true (.r 11) (.r 10) (.r 7) .asr (.r 13)) := by decide +kernel

theorem test_decode_adc :
    decodeWord 0b1110_0010101_0_1100_0100_0100_11101110#32 =
      .ok (.adcImm .al false (.r 4) (.r 12) 4#4 238#8) ∧
    decodeWord 0b1110_0000101_1_1100_0010_10011_11_0_1011#32 =
      .ok (.adcShiftImm .al true (.r 2) (.r 12) (.r 11) .ror 19#5) ∧
    decodeWord 0b1110_0000101_0_1011_0010_0101_0_10_1_0110#32 =
      .ok (.adcShiftReg .al false (.r 2) (.r 11) (.r 6) .asr (.r 5)) := by decide +kernel

theorem test_decode_sub :
    decodeWord 0b1011_0010010_1_0011_0100_0010_00000011#32 =
      .ok (.subImm .lt true (.r 4) (.r 3) 2#4 3#8) ∧
    decodeWord 0b1110_0000010_0_0011_0100_01111_11_0_1001#32 =
      .ok (.subShiftImm .al false (.r 4) (.r 3) (.r 9) .ror 15#5) ∧
    decodeWord 0b1110_0000010_1_0011_0010_0111_0_10_1_1011#32 =
      .ok (.subShiftReg .al true (.r 2) (.r 3) (.r 11) .asr (.r 7)) := by decide +kernel

theorem test_decode_sbc :
    decodeWord 0b1110_0010110_0_1010_1011_1111_00000110#32 =
      .ok (.sbcImm .al false (.r 11) (.r 10) 15#4 6#8) ∧
    decodeWord 0b0000_0000110_1_1010_0010_00101_01_0_1011#32 =
      .ok (.sbcShiftImm .eq true (.r 2) (.r 10) (.r 11) .lsr 5#5) ∧
    decodeWord 0b1110_0000110_0_0001_1101_1010_0_10_1_0110#32 =
      .ok (.sbcShiftReg .al false (.r 13) (.r 1) (.r 6) .asr (.r 10)) := by decide +kernel

theorem test_decode_rsb :
    decodeWord 0b1110_0010011_1_1010_1011_0001_10011010#32 =
      .ok (.rsbImm .al true (.r 11) (.r 10) 1#4 154#8) ∧
    decodeWord 0b1110_0000011_0_1000_1011_11011_11_0_0011#32 =
      .ok (.rsbShiftImm .al false (.r 11) (.r 8) (.r 3) .ror 27#5) ∧
    decodeWord 0b0011_0000011_1_1110_0101_1011_0_11_1_1100#32 =
      .ok (.rsbShiftReg .cc true (.r 5) (.r 14) (.r 12) .ror (.r 11)) := by decide +kernel

theorem test_decode_rsc :
    decodeWord 0b1110_0010111_0_1001_1101_1011_11110100#32 =
      .ok (.rscImm .al false (.r 13) (.r 9) 11#4 244#8) ∧
    decodeWord 0b1110_0000111_1_0010_0001_00100_01_0_1110#32 =
      .ok (.rscShiftImm .al true (.r 1) (.r 2) (.r 14) .lsr 4#5) ∧
    decodeWord 0b1110_0000111_0_0101_1100_0100_0_10_1_0111#32 =
      .ok (.rscShiftReg .al false (.r 12) (.r 5) (.r 7) .asr (.r 4)) := by decide +kernel

theorem test_decode_cmp :
    decodeWord 0b1011_00110101_0011_0000_0010_00100001#32 =
      .ok (.cmpImm .lt (.r 3) 2#4 33#8) ∧
    decodeWord 0b1110_00010101_1010_0000_01001_01_0_0010#32 =
      .ok (.cmpShiftImm .al (.r 10) (.r 2) .lsr 9#5) ∧
    decodeWord 0b1110_00010101_0010_0000_0101_0_10_1_0111#32 =
      .ok (.cmpShiftReg .al (.r 2) (.r 7) .asr (.r 5)) := by decide +kernel

theorem test_decode_cmn :
    decodeWord 0b1110_00110111_0110_0000_1001_10010011#32 =
      .ok (.cmnImm .al (.r 6) 9#4 147#8) ∧
    decodeWord 0b1010_00010111_1000_0000_11000_11_0_1100#32 =
      .ok (.cmnShiftImm .ge (.r 8) (.r 12) .ror 24#5) ∧
    decodeWord 0b1110_00010111_1101_0000_0001_0_10_1_1011#32 =
      .ok (.cmnShiftReg .al (.r 13) (.r 11) .asr (.r 1)) := by decide +kernel

theorem test_decode_tst :
    decodeWord 0b1110_00110001_0010_0000_1000_00010010#32 =
      .ok (.tstImm .al (.r 2) 8#4 18#8) ∧
    decodeWord 0b1110_00010001_0010_0000_01111_11_0_1010#32 =
      .ok (.tstShiftImm .al (.r 2) (.r 10) .ror 15#5) ∧
    decodeWord 0b0001_00010001_0011_0000_1110_0_11_1_1010#32 =
      .ok (.tstShiftReg .ne (.r 3) (.r 10) .ror (.r 14)) := by decide +kernel

theorem test_decode_teq :
    decodeWord 0b1110_00110011_1011_0000_1010_10101010#32 =
      .ok (.teqImm .al (.r 11) 10#4 170#8) ∧
    decodeWord 0b1110_00010011_1100_0000_00011_01_0_0010#32 =
      .ok (.teqShiftImm .al (.r 12) (.r 2) .lsr 3#5) ∧
    decodeWord 0b1110_00010011_0111_0000_0110_0_11_1_1110#32 =
      .ok (.teqShiftReg .al (.r 7) (.r 14) .ror (.r 6)) := by decide +kernel

theorem test_decode_and :
    decodeWord 0b0001_0010000_1_1011_1001_1001_11000001#32 =
      .ok (.andImm .ne true (.r 9) (.r 11) 9#4 193#8) ∧
    decodeWord 0b1110_0000000_0_1010_1000_00001_01_0_0010#32 =
      .ok (.andShiftImm .al false (.r 8) (.r 10) (.r 2) .lsr 1#5) ∧
    decodeWord 0b1110_0000000_1_1000_0101_1010_0_01_1_1110#32 =
      .ok (.andShiftReg .al true (.r 5) (.r 8) (.r 14) .lsr (.r 10)) := by decide +kernel

theorem test_decode_eor :
    decodeWord 0b1110_0010001_0_1010_0100_1001_00101100#32 =
      .ok (.eorImm .al false (.r 4) (.r 10) 9#4 44#8) ∧
    decodeWord 0b0101_0000001_1_1000_0100_01101_11_0_1100#32 =
      .ok (.eorShiftImm .pl true (.r 4) (.r 8) (.r 12) .ror 13#5) ∧
    decodeWord 0b1110_0000001_0_1011_1010_0111_0_10_1_1101#32 =
      .ok (.eorShiftReg .al false (.r 10) (.r 11) (.r 13) .asr (.r 7)) := by decide +kernel

theorem test_decode_orr :
    decodeWord 0b1110_0011100_1_0011_1101_1000_01011010#32 =
      .ok (.orrImm .al true (.r 13) (.r 3) 8#4 90#8) ∧
    decodeWord 0b1110_0001100_0_0010_0011_00100_10_0_0101#32 =
      .ok (.orrShiftImm .al false (.r 3) (.r 2) (.r 5) .asr 4#5) ∧
    decodeWord 0b0111_0001100_1_0100_1001_0111_0_11_1_1011#32 =
      .ok (.orrShiftReg .vc true (.r 9) (.r 4) (.r 11) .ror (.r 7)) := by decide +kernel

theorem test_decode_bic :
    decodeWord 0b1110_0011110_0_1110_0010_1110_00001001#32 =
      .ok (.bicImm .al false (.r 2) (.r 14) 14#4 9#8) ∧
    decodeWord 0b1110_0001110_1_1011_0110_01010_11_0_1110#32 =
      .ok (.bicShiftImm .al true (.r 6) (.r 11) (.r 14) .ror 10#5) ∧
    decodeWord 0b1110_0001110_0_0001_0111_1011_0_10_1_0011#32 =
      .ok (.bicShiftReg .al false (.r 7) (.r 1) (.r 3) .asr (.r 11)) := by decide +kernel

theorem test_decode_mrs :
    decodeWord 0b1010_000100001111_1101_000000000000#32 =
      .ok (.mrsCpsr .ge (.r 13)) ∧
    decodeWord 0b1110_000101001111_0110_000000000000#32 =
      .ok (.mrsSpsr .al (.r 6)) := by decide +kernel

theorem test_decode_msr :
    decodeWord 0b1110_00010010_0011_111100000000_0101#32 =
      .ok (.msrCpsrReg .al 3#4 (.r 5)) ∧
    decodeWord 0b1110_00010110_0100_111100000000_0011#32 =
      .ok (.msrSpsrReg .al 4#4 (.r 3)) ∧
    decodeWord 0b1001_00110010_0111_1111_1101_00101001#32 =
      .ok (.msrCpsrImm .ls 7#4 13#4 41#8) ∧
    decodeWord 0b1110_00110110_1100_1111_1111_11100101#32 =
      .ok (.msrSpsrImm .al 12#4 15#4 229#8) := by decide +kernel

theorem test_decode_mul :
    decodeWord 0b1110_0000000_1_0001_0000_1100_1001_0100#32 =
      .ok (.mul .al true (.r 1) (.r 4) (.r 12)) := by decide +kernel

theorem test_decode_mla :
    decodeWord 0b1110_0000001_0_0110_1010_1011_1001_1101#32 =
      .ok (.mla .al false (.r 6) (.r 13) (.r 11) (.r 10)) := by decide +kernel

theorem test_decode_umull :
    decodeWord 0b0011_0000100_1_0100_1011_0010_1001_1010#32 =
      .ok (.umull .cc true (.r 11) (.r 4) (.r 10) (.r 2)) := by decide +kernel

theorem test_decode_umlal :
    decodeWord 0b1110_0000101_0_0101_0010_1001_1001_0110#32 =
      .ok (.umlal .al false (.r 2) (.r 5) (.r 6) (.r 9)) := by decide +kernel

theorem test_decode_smull :
    decodeWord 0b1110_0000110_1_0110_0001_1001_1001_0010#32 =
      .ok (.smull .al true (.r 1) (.r 6) (.r 2) (.r 9)) := by decide +kernel

theorem test_decode_smlal :
    decodeWord 0b1110_0000111_0_1001_0110_0111_1001_0101#32 =
      .ok (.smlal .al false (.r 6) (.r 9) (.r 5) (.r 7)) := by decide +kernel

theorem test_decode_b :
    decodeWord 0b0010_1010_100010000111101010101111#32 =
      .ok (.b .cs 8944303#24) := by decide +kernel

theorem test_decode_bl :
    decodeWord 0b1110_1011_111001101000101110010011#32 =
      .ok (.bl .al 15109011#24) := by decide +kernel

theorem test_decode_bx :
    decodeWord 0b1110_000100101111111111110001_0010#32 =
      .ok (.bx .al (.r 2)) := by decide +kernel

theorem test_decode_ldr :
    decodeWord 0b1110_0101_0_0_1_1_1011_0101_110101001101#32 =
      .ok (.ldrImm .al false true (.r 5) (.r 11) 3405#12) ∧
    decodeWord 0b1101_0100_1_001_0100_1110_001001000011#32 =
      .ok (.ldrImmPost .le true (.r 14) (.r 4) 579#12) ∧
    decodeWord 0b1110_0111_1_0_0_1_0111_0010_10001_01_0_1001#32 =
      .ok (.ldrReg .al true false (.r 2) (.r 7) (.r 9) .lsr 17#5) ∧
    decodeWord 0b1110_0110_0_001_0111_0010_10000_01_0_1100#32 =
      .ok (.ldrRegPost .al false (.r 2) (.r 7) (.r 12) .lsr 16#5) := by decide +kernel

theorem test_decode_ldrt :
    decodeWord 0b1110_0100_1_011_1011_0101_001111110001#32 =
      .ok (.ldrtImm .al true (.r 5) (.r 11) 1009#12) ∧
    decodeWord 0b0101_0110_1_011_0111_1001_00100_01_0_1110#32 =
      .ok (.ldrtReg .pl true (.r 9) (.r 7) (.r 14) .lsr 4#5) := by decide +kernel

theorem test_decode_ldrb :
    decodeWord 0b1110_0101_0_1_0_1_1101_1110_001100011100#32 =
      .ok (.ldrbImm .al false false (.r 14) (.r 13) 796#12) ∧
    decodeWord 0b1110_0100_1_101_1101_0100_100111101011#32 =
      .ok (.ldrbImmPost .al true (.r 4) (.r 13) 2539#12) ∧
    decodeWord 0b1110_0111_0_1_1_1_1010_1001_10100_10_0_1110#32 =
      .ok (.ldrbReg .al false true (.r 9) (.r 10) (.r 14) .asr 20#5) ∧
    decodeWord 0b1000_0110_0_101_1101_0011_00111_11_0_1001#32 =
      .ok (.ldrbRegPost .hi false (.r 3) (.r 13) (.r 9) .ror 7#5) := by decide +kernel

theorem test_decode_ldrbt :
    decodeWord 0b1110_0100_1_111_1011_0011_001110111001#32 =
      .ok (.ldrbtImm .al true (.r 3) (.r 11) 953#12) ∧
    decodeWord 0b1110_0110_0_111_1101_1100_11001_01_0_0100#32 =
      .ok (.ldrbtReg .al false (.r 12) (.r 13) (.r 4) .lsr 25#5) := by decide +kernel

theorem test_decode_ldrsb :
    decodeWord 0b1110_0001_0_1_1_1_0101_0111_1110_1101_0111#32 =
      .ok (.ldrsbImm .al false true (.r 7) (.r 5) 231#8) ∧
    decodeWord 0b1010_0000_0_101_0100_0111_0010_1101_0100#32 =
      .ok (.ldrsbImmPost .ge false (.r 7) (.r 4) 36#8) ∧
    decodeWord 0b1110_0001_1_0_0_1_1100_1001_00001101_0010#32 =
      .ok (.ldrsbReg .al true false (.r 9) (.r 12) (.r 2)) ∧
    decodeWord 0b1110_0000_1_001_1110_1010_00001101_0001#32 =
      .ok (.ldrsbRegPost .al true (.r 10) (.r 14) (.r 1)) := by decide +kernel

theorem test_decode_ldrh :
    decodeWord 0b1110_0001_0_1_1_1_1101_1100_1111_1011_1011#32 =
      .ok (.ldrhImm .al false true (.r 12) (.r 13) 251#8) ∧
    decodeWord 0b1100_0000_0_101_1000_1110_0110_1011_0111#32 =
      .ok (.ldrhImmPost .gt false (.r 14) (.r 8) 103#8) ∧
    decodeWord 0b1110_0001_1_0_0_1_0110_0100_00001011_1101#32 =
      .ok (.ldrhReg .al true false (.r 4) (.r 6) (.r 13)) ∧
    decodeWord 0b1110_0000_1_001_0100_0111_00001011_0011#32 =
      .ok (.ldrhRegPost .al true (.r 7) (.r 4) (.r 3)) := by decide +kernel

theorem test_decode_ldrsh :
    decodeWord 0b1110_0001_0_1_0_1_0100_0011_0110_1111_1111#32 =
      .ok (.ldrshImm .al false false (.r 3) (.r 4) 111#8) ∧
    decodeWord 0b1000_0000_1_101_0111_0100_1101_1111_1101#32 =
      .ok (.ldrshImmPost .hi true (.r 4) (.r 7) 221#8) ∧
    decodeWord 0b1110_0001_1_0_1_1_0011_1011_00001111_0111#32 =
      .ok (.ldrshReg .al true true (.r 11) (.r 3) (.r 7)) ∧
    decodeWord 0b1110_0000_0_001_1110_1100_00001111_0100#32 =
      .ok (.ldrshRegPost .al false (.r 12) (.r 14) (.r 4)) := by decide +kernel

theorem test_decode_ldm :
    decodeWord 0b1110_100_0_1_0_0_1_0001_0100010111100010#32 =
      .ok (.ldm1 .al .ia false (.r 1) 0x45E2#16) ∧
    decodeWord 0b1000_100_1_0_1_1_1_0011_1_101001000110110#32 =
      .ok (.ldm3 .hi .db true (.r 3) 0xD236#16) ∧
    decodeWord 0b1110_100_0_0_101_0001_0_101111010010001#32 =
      .ok (.ldm2 .al .da (.r 1) 0x5E91#16) := by decide +kernel

theorem test_decode_str :
    decodeWord 0b1110_0101_0_0_1_0_1001_0001_110000101111#32 =
      .ok (.strImm .al false true (.r 1) (.r 9) 3119#12) ∧
    decodeWord 0b1110_0100_1_000_1011_0110_100011001110#32 =
      .ok (.strImmPost .al true (.r 6) (.r 11) 2254#12) ∧
    decodeWord 0b1000_0111_0_0_1_0_1011_1100_10100_11_0_1000#32 =
      .ok (.strReg .hi false true (.r 12) (.r 11) (.r 8) .ror 20#5) ∧
    decodeWord 0b1110_0110_0_000_1110_1001_10100_11_0_1100#32 =
      .ok (.strRegPost .al false (.r 9) (.r 14) (.r 12) .ror 20#5) := by decide +kernel

theorem test_decode_strt :
    decodeWord 0b1110_0100_1_010_1001_1100_100110010001#32 =
      .ok (.strtImm .al true (.r 12) (.r 9) 2449#12) ∧
    decodeWord 0b1110_0110_1_010_1000_1101_11110_10_0_1100#32 =
      .ok (.strtReg .al true (.r 13) (.r 8) (.r 12) .asr 30#5) := by decide +kernel

theorem test_decode_strb :
    decodeWord 0b0110_0101_1_1_0_0_1101_0011_110000010100#32 =
      .ok (.strbImm .vs true false (.r 3) (.r 13) 3092#12) ∧
    decodeWord 0b1110_0100_0_100_1010_1110_000100101110#32 =
      .ok (.strbImmPost .al false (.r 14) (.r 10) 302#12) ∧
    decodeWord 0b1110_0111_1_1_0_0_0101_0001_10001_01_0_0100#32 =
      .ok (.strbReg .al true false (.r 1) (.r 5) (.r 4) .lsr 17#5) ∧
    decodeWord 0b1110_0110_0_100_0010_0111_01111_01_0_0001#32 =
      .ok (.strbRegPost .al false (.r 7) (.r 2) (.r 1) .lsr 15#5) := by decide +kernel

theorem test_decode_strbt :
    decodeWord 0b0101_0100_0_110_0011_0010_011100010110#32 =
      .ok (.strbtImm .pl false (.r 2) (.r 3) 1814#12) ∧
    decodeWord 0b1110_0110_0_110_1010_1101_01100_11_0_0101#32 =
      .ok (.strbtReg .al false (.r 13) (.r 10) (.r 5) .ror 12#5) := by decide +kernel

theorem test_decode_strh :
    decodeWord 0b1110_0001_1_1_1_0_1000_0010_0101_1011_0101#32 =
      .ok (.strhImm .al true true (.r 2) (.r 8) 85#8) ∧
    decodeWord 0b1110_0000_1_100_1101_0100_1101_1011_0100#32 =
      .ok (.strhImmPost .al true (.r 4) (.r 13) 212#8) ∧
    decodeWord 0b1010_0001_0_0_0_0_1011_0001_00001011_1101#32 =
      .ok (.strhReg .ge false false (.r 1) (.r 11) (.r 13)) ∧
    decodeWord 0b1110_0000_0_000_0001_1011_00001011_1010#32 =
      .ok (.strhRegPost .al false (.r 11) (.r 1) (.r 10)) := by decide +kernel

theorem test_decode_stm :
    decodeWord 0b1110_100_1_0_0_1_0_0011_0111101010000011#32 =
      .ok (.stm1 .al .db true (.r 3) 0x7A83#16) ∧
    decodeWord 0b1110_100_0_0_100_0011_0111001010000011#32 =
      .ok (.stm2 .al .da (.r 3) 0x7283#16) := by decide +kernel

theorem test_decode_swp :
    decodeWord 0b0110_00010000_1000_0101_00001001_0111#32 =
      .ok (.swp .vs (.r 5) (.r 7) (.r 8)) := by decide +kernel

theorem test_decode_swpb :
    decodeWord 0b1110_00010100_1110_1100_00001001_1010#32 =
      .ok (.swpb .al (.r 12) (.r 10) (.r 14)) := by decide +kernel

theorem test_decode_swi :
    decodeWord 0b1110_1111_100101001010000110000110#32 =
      .ok (.swi .al 9740678#24) := by decide +kernel

theorem test_decode_undefined_spaces :
    decodeWord 0b1110_011_01101110100101101100_1_1100#32 =
      .ok (.undefinedSpace .al 452972#20 12#4) ∧
    decodeWord 0b1101_110_1100011010000111011000001#32 =
      .ok (.coprocTransfer .le 26021569#25) ∧
    decodeWord 0b1110_1110_101100011111001001100111#32 =
      .ok (.coprocOperation .al 11661927#24) := by decide +kernel

/-! ## One step each (spec/95_test_vectors.md, sections named) -/

/-- A state about to execute the instruction at 0x8000 in a mode, with the flags, registers (as the mode sees them) and
words of memory given, and nothing else. -/
def start (m : Mode) (nzcv : BitVec 4) (regs : List (Fin 15 × Word)) (words : List (Nat × Word)) : State :=
  let s : State := { State.reset with
    pc := 0x8000#32
    cpsr := { n := nzcv.getLsbD 3, z := nzcv.getLsbD 2, c := nzcv.getLsbD 1, v := nzcv.getLsbD 0
              i := false, f := false, t := false, m := m }
    mem := words.foldl (fun mem p => storeBytes mem p.1 p.2 4) [] }
  regs.foldl (fun s p => writeGeneral s p.1 p.2) s

/-- The next state of a result, if there is one. -/
def nextOf (r : Result) : Option State :=
  match r with
  | .next t => some t
  | _ => none

/-- The state after one step on the word. -/
def after (w : Word) (s : State) : Option State := nextOf (step (storeInstruction w s))

/-- The refusal of one step on the word. -/
def stop (w : Word) (s : State) : Option Refusal :=
  match step (storeInstruction w s) with
  | .refused r => some r
  | _ => none

/-- N, Z, C, V. -/
def nzcv (t : State) : BitVec 4 :=
  BitVec.ofBool t.cpsr.n ++ BitVec.ofBool t.cpsr.z ++ BitVec.ofBool t.cpsr.c ++ BitVec.ofBool t.cpsr.v

/-- The word of the status register a mode saves into. -/
def savedWord (e : ExcMode) (t : State) : Word := (t.spsr.get e).toWord

-- 2.1: MOVEQ, MOVLS, MOVGT
theorem test_condition_passes : (after 0x03A00001#32 (start .user 0b0100#4 [] [])).map (readGeneral · 0) = some 1#32 := by
  decide +kernel

theorem test_condition_fails :
    (after 0xC3A00001#32 (start .user 0b1101#4 [] [])).map (fun t => (readGeneral t 0, t.pc)) =
      some (0#32, 0x8004#32) := by decide +kernel

-- 2.2, 2.3: shifter operand and carry
theorem test_movs_rotated_immediate :
    (after 0xE3B004FF#32 (start .user 0 [] [])).map (fun t => (readGeneral t 0, nzcv t)) =
      some (0xFF000000#32, 0b1010#4) := by decide +kernel

theorem test_movs_rrx :
    (after 0xE1B00061#32 (start .user 0 [(1, 0x80000001#32)] [])).map (fun t => (readGeneral t 0, nzcv t)) =
      some (0x40000000#32, 0b0010#4) := by decide +kernel

theorem test_shift_by_register_32 :
    (after 0xE1B00251#32 (start .user 0b0010#4 [(1, 0x80000001#32), (2, 0x20#32)] [])).map
      (fun t => (readGeneral t 0, nzcv t)) = some (0xFFFFFFFF#32, 0b1010#4) := by decide +kernel

theorem test_shift_by_register_0 :
    (after 0xE1B00251#32 (start .user 0b0010#4 [(1, 0x80000001#32), (2, 0x100#32)] [])).map
      (fun t => (readGeneral t 0, nzcv t)) = some (0x80000001#32, 0b1010#4) := by decide +kernel

theorem test_r15_with_register_shift_refused :
    stop 0xE08F0211#32 (start .user 0 [(1, 1#32)] []) = some .r15WithRegisterShift := by decide +kernel

-- 2.4: data processing
theorem test_add_reads_pc_plus_8 :
    (after 0xE28F0004#32 (start .user 0 [] [])).map (readGeneral · 0) = some 0x800C#32 := by decide +kernel

theorem test_mvn : (after 0xE3E00000#32 (start .user 0 [] [])).map (readGeneral · 0) = some 0xFFFFFFFF#32 := by
  decide +kernel

theorem test_adds_overflow :
    (after 0xE0910002#32 (start .user 0 [(1, 0x80000000#32), (2, 0x80000000#32)] [])).map
      (fun t => (readGeneral t 0, nzcv t)) = some (0#32, 0b0111#4) := by decide +kernel

theorem test_adcs_carry_in :
    (after 0xE0B10002#32 (start .user 0b0010#4 [(1, 0xFFFFFFFF#32)] [])).map
      (fun t => (readGeneral t 0, nzcv t)) = some (0#32, 0b0110#4) := by decide +kernel

theorem test_subs_no_borrow :
    (after 0xE0510002#32 (start .user 0 [(1, 6#32), (2, 5#32)] [])).map (fun t => (readGeneral t 0, nzcv t)) =
      some (1#32, 0b0010#4) := by decide +kernel

theorem test_sbcs_borrow :
    (after 0xE0D10002#32 (start .user 0 [(2, 0xFFFFFFFF#32)] [])).map (fun t => (readGeneral t 0, nzcv t)) =
      some (0#32, 0b0100#4) := by decide +kernel

theorem test_rsbs_zero :
    (after 0xE2710000#32 (start .user 0 [] [])).map (fun t => (readGeneral t 0, nzcv t)) =
      some (0#32, 0b0110#4) := by decide +kernel

theorem test_rscs_without_carry :
    (after 0xE2F10000#32 (start .user 0 [] [])).map (fun t => (readGeneral t 0, nzcv t)) =
      some (0xFFFFFFFF#32, 0b1000#4) := by decide +kernel

theorem test_cmp_equal :
    (after 0xE1510002#32 (start .user 0 [(1, 5#32), (2, 5#32)] [])).map nzcv = some 0b0110#4 := by decide +kernel

theorem test_cmn_zero : (after 0xE3710000#32 (start .user 0b0010#4 [] [])).map nzcv = some 0b0100#4 := by
  decide +kernel

theorem test_tst_shifter_carry :
    (after 0xE1110082#32 (start .user 0 [(2, 0x80000000#32)] [])).map nzcv = some 0b0110#4 := by decide +kernel

theorem test_and :
    (after 0xE0010002#32 (start .user 0 [(1, 0xF0F0F0F0#32), (2, 0xFF00FF00#32)] [])).map (readGeneral · 0) =
      some 0xF000F000#32 := by decide +kernel

theorem test_eors_itself :
    (after 0xE0300000#32 (start .user 0 [(0, 0xDEADBEEF#32)] [])).map (fun t => (readGeneral t 0, nzcv t)) =
      some (0#32, 0b0100#4) := by decide +kernel

theorem test_bic :
    (after 0xE1C10002#32 (start .user 0 [(1, 0xFFFFFFFF#32), (2, 0x0000FFFF#32)] [])).map (readGeneral · 0) =
      some 0xFFFF0000#32 := by decide +kernel

theorem test_movs_r15_without_spsr :
    stop 0xE1B0F00E#32 (start .system 0 [(14, 0x8100#32)] []) = some .noSpsr := by decide +kernel

-- 2.5: status registers
theorem test_mrs_cpsr :
    (after 0xE10F0000#32 { start (.exc .svc) 0 [] [] with
      cpsr := { n := false, z := false, c := false, v := false, i := true, f := true, t := false, m := .exc .svc } }).map
      (readGeneral · 0) = some 0xD3#32 := by decide +kernel

theorem test_msr_cpsr_user :
    (after 0xE129F000#32 (start .user 0 [(0, 0xA00000DF#32)] [])).map (fun t => t.cpsr.save.toWord) =
      some 0xA0000010#32 := by decide +kernel

theorem test_msr_cpsr_privileged :
    (after 0xE12FF000#32 (start (.exc .svc) 0 [(0, 0x9FFFFF50#32)] [])).map (fun t => t.cpsr.save.toWord) =
      some 0x90000050#32 := by decide +kernel

theorem test_msr_illegal_mode :
    stop 0xE121F000#32 (start (.exc .svc) 0 [(0, 0xD4#32)] []) = some .illegalMode := by decide +kernel

theorem test_msr_spsr :
    (after 0xE169F000#32 (start (.exc .svc) 0 [(0, 0x80000010#32)] [])).map (savedWord .svc) =
      some 0x80000010#32 := by decide +kernel

-- 2.6: multiplies
theorem test_mla :
    (after 0xE0203291#32 (start .user 0 [(1, 7#32), (2, 6#32), (3, 0xFFFFFFFF#32)] [])).map (readGeneral · 0) =
      some 0x29#32 := by decide +kernel

theorem test_umull :
    (after 0xE0810392#32 (start .user 0 [(2, 0x80000000#32), (3, 2#32)] [])).map
      (fun t => (readGeneral t 1, readGeneral t 0)) = some (1#32, 0#32) := by decide +kernel

theorem test_umlal_wraps :
    (after 0xE0A10392#32 (start .user 0 [(0, 0xFFFFFFFF#32), (1, 0xFFFFFFFF#32), (2, 1#32), (3, 1#32)] [])).map
      (fun t => (readGeneral t 1, readGeneral t 0)) = some (0#32, 0#32) := by decide +kernel

theorem test_smull :
    (after 0xE0C10392#32 (start .user 0 [(2, 0x80000000#32), (3, 0x80000000#32)] [])).map
      (fun t => (readGeneral t 1, readGeneral t 0)) = some (0x40000000#32, 0#32) := by decide +kernel

theorem test_smlal :
    (after 0xE0E10392#32 (start .user 0 [(0, 1#32), (2, 0xFFFFFFFF#32), (3, 1#32)] [])).map
      (fun t => (readGeneral t 1, readGeneral t 0)) = some (0#32, 0#32) := by decide +kernel

-- 2.7: branches
theorem test_b_backward : (after 0xEAFFFFBE#32 (start .user 0 [] [])).map (·.pc) = some 0x7F00#32 := by decide +kernel

theorem test_bl_links_in_mode :
    (after 0xEB00003E#32 (start (.exc .irq) 0 [] [])).map (fun t => (t.regs.r14.irq, t.pc)) =
      some (0x8004#32, 0x8100#32) := by decide +kernel

theorem test_bx_thumb_refused : stop 0xE12FFF10#32 (start .user 0 [(0, 0x8105#32)] []) = some .thumbState := by
  decide +kernel

theorem test_top_of_memory :
    stop 0xE3A00000#32 { start .user 0 [] [] with pc := 0xFFFFFFFC#32 } = some .pcWrap := by decide +kernel

-- 2.8, 2.9: single transfers; the words at 0x9000 are the section's
theorem test_ldr_post_indexed :
    (after 0xE4910004#32 (start .user 0 [(1, 0x9000#32)] [(0x9000, 0x12345678#32)])).map
      (fun t => (readGeneral t 0, readGeneral t 1)) = some (0x12345678#32, 0x9004#32) := by decide +kernel

theorem test_ldr_asr_32 :
    (after 0xE7910042#32 (start .user 0 [(1, 0x9005#32), (2, 0x80000000#32)] [(0x9004, 0x9ABCDEF0#32)])).map
      (readGeneral · 0) = some 0x9ABCDEF0#32 := by decide +kernel

theorem test_ldrb :
    (after 0xE5D10003#32 (start .user 0 [(1, 0x9000#32)] [(0x9000, 0x12345678#32)])).map (readGeneral · 0) =
      some 0x12#32 := by decide +kernel

theorem test_ldrbt_base :
    (after 0xE6710002#32 (start .user 0 [(1, 0x9008#32), (2, 8#32)] [(0x9008, 0x000080FF#32)])).map
      (fun t => (readGeneral t 0, readGeneral t 1)) = some (0xFF#32, 0x9000#32) := by decide +kernel

theorem test_str_post_indexed :
    (after 0xE4810004#32 (start .user 0 [(0, 0x11223344#32), (1, 0xA000#32)] [])).map
      (fun t => ((List.range 4).map fun k => readByte t.mem (0xA000 + k), readGeneral t 1)) =
      some ([0x44#8, 0x33#8, 0x22#8, 0x11#8], 0xA004#32) := by decide +kernel

theorem test_ldrh_post_indexed_down :
    (after 0xE05100B2#32 (start .user 0 [(1, 0x9006#32)] [(0x9004, 0x9ABCDEF0#32)])).map
      (fun t => (readGeneral t 0, readGeneral t 1)) = some (0x9ABC#32, 0x9004#32) := by decide +kernel

theorem test_ldrsb :
    (after 0xE1D100D0#32 (start .user 0 [(1, 0x9008#32)] [(0x9008, 0x000080FF#32)])).map (readGeneral · 0) =
      some 0xFFFFFFFF#32 := by decide +kernel

theorem test_ldrsh_positive :
    (after 0xE1D100F0#32 (start .user 0 [(1, 0x9000#32)] [(0x9000, 0x12345678#32)])).map (readGeneral · 0) =
      some 0x5678#32 := by decide +kernel

theorem test_strh_pre_indexed :
    (after 0xE16100B2#32 (start .user 0 [(0, 0xBEEF#32), (1, 0xA002#32)] [])).map
      (fun t => (readByte t.mem 0xA000, readByte t.mem 0xA001, readByte t.mem 0xA002, readGeneral t 1)) =
      some (0xEF#8, 0xBE#8, 0#8, 0xA000#32) := by decide +kernel

-- 2.10: block transfers
theorem test_ldmib_writes_back :
    (after 0xE9B0000E#32 (start .user 0 [(0, 0x9000#32)] [(0x9004, 0x22#32), (0x9008, 0x33#32), (0x900C, 0x8104#32)])).map
      (fun t => [readGeneral t 0, readGeneral t 1, readGeneral t 2, readGeneral t 3]) =
      some [0x900C#32, 0x22#32, 0x33#32, 0x8104#32] := by decide +kernel

theorem test_stmdb_writes_back :
    (after 0xE9200006#32 (start .user 0 [(0, 0xA000#32), (1, 0xAA#32), (2, 0xBB#32)] [])).map
      (fun t => (readByte t.mem 0x9FF8, readByte t.mem 0x9FFC, readGeneral t 0)) =
      some (0xAA#8, 0xBB#8, 0x9FF8#32) := by decide +kernel

theorem test_ldm_restores_cpsr :
    (after 0xE8FD8001#32 { start (.exc .svc) 0 [(13, 0x9008#32)] [(0x9008, 0x33#32), (0x900C, 0x8104#32)] with
      spsr := Banked.same (Psr.ofWord 0x40000010#32) }).map
      (fun t => (t.regs.user[0], t.regs.r13.svc, t.cpsr.save.toWord, t.pc)) =
      some (0x33#32, 0x9010#32, 0x40000010#32, 0x8104#32) := by decide +kernel

theorem test_stm_user_bank :
    (after 0xE8C06000#32 (writeUserBank (start (.exc .svc) 0 [(0, 0xA000#32), (13, 0x6000#32)] []) 13 0x7FF0#32)).map
      (fun t => (readByte t.mem 0xA000, readByte t.mem 0xA001, t.afterUserTransfer)) =
      some (0xF0#8, 0x7F#8, true) := by decide +kernel

theorem test_banked_register_after_user_transfer :
    stop 0xE1A0100E#32 { start (.exc .svc) 0 [] [] with afterUserTransfer := true } =
      some .bankedAccessAfterUserTransfer := by decide +kernel

-- 2.11: swap
theorem test_swp_exchanges :
    (after 0xE1020090#32 (start .user 0 [(0, 0xAAAAAAAA#32), (2, 0x9004#32)] [(0x9004, 0x12345678#32)])).map
      (fun t => (readGeneral t 0, readByte t.mem 0x9004)) = some (0x12345678#32, 0xAA#8) := by decide +kernel

-- 2.12: exceptions
theorem test_swi :
    (after 0xEF000011#32 (start .user 0b0110#4 [] [])).map
      (fun t => (t.regs.r14.svc, savedWord .svc t, t.cpsr.save.toWord, t.pc)) =
      some (0x8004#32, 0x60000010#32, 0x60000093#32, 8#32) := by decide +kernel

theorem test_coprocessor_word_is_undefined :
    (after 0xEE000010#32 (start .user 0 [] [])).map (fun t => (t.regs.r14.und, t.cpsr.m, t.pc)) =
      some (0x8004#32, .exc .und, 4#32) := by decide +kernel

theorem test_fiq_before_irq :
    (after 0xE3A00001#32 { start .user 0 [] [] with inputs := [{ irq := true, fiq := true }] }).map
      (fun t => (t.regs.r14.fiq, t.cpsr.save.toWord, t.pc)) = some (0x8004#32, 0xD1#32, 0x1C#32) := by decide +kernel

theorem test_unallocated_word_refused :
    stop 0xE1501000#32 (start .user 0 [(0, 1#32)] []) = some .unallocatedEncoding := by decide +kernel

-- the interface: the word of the table is the word executed
theorem test_fetch_word_runs :
    (nextOf (step (State.reset.withFetchWord 32 0xE3A00001))).map (fun t => (readGeneral t 0, t.pc)) =
      some (1#32, 4#32) := by decide +kernel

theorem test_decode_table_word :
    decodeTableWord 32 0xE3A00001 = some (.movImm .al false (.r 0) 0#4 1#8) := by decide +kernel

-- lines and mnemonics: the words are 95_test_vectors.md's, sections 2.2, 2.3, 2.7, 2.8, 2.10
theorem test_assemble_constant : assembleImmediate 0x00AB0000#32 = some (8#4, 0xAB#8) := by decide +kernel

theorem test_assemble_lines :
    ([.dataProcessing .mov .al true (.r 0) (.r 0) (.register (.r 1) (.lsr 32)), .branch false .al 0x7F00#32,
      .mode2 .ldrbt .al (.r 0) ⟨.r 1, .postIndexed, .reg true (.r 2) .none⟩,
      .mode3 .strh .al (.r 0) ⟨.r 1, .preIndexed, .imm true 2⟩,
      .loadMultiple .al (.stack .fd) true (.r 13) [.pc, .r 0] true].map fun line =>
        (assemble 0x8000#32 line).map encodeWord) =
      [some 0xE1B00021#32, some 0xEAFFFFBE#32, some 0xE6710002#32, some 0xE16100B2#32, some 0xE8FD8001#32] := by
  decide +kernel

theorem test_read_mnemonic :
    readMnemonic "STRBTEQ" = some ⟨"STR", .eq, "BT"⟩ ∧ readMnemonic "STREQBT" = some ⟨"STR", .eq, "BT"⟩ ∧
      readMnemonic "LDMFD" = some ⟨"LDM", .al, "FD"⟩ ∧ readMnemonic "BLS" = some ⟨"B", .ls, ""⟩ ∧
      readMnemonic "PUSH" = none := by decide +kernel

/-! ## The hypotheses of each statement are met by some state: one witness for every clause that has its own -/

/-- The state with accesses of this kind, size and privilege aborting in the range. -/
def aborting (kind : AccessKind) (size : Nat) (user : Bool) (first last : Nat) (s : State) : State :=
  { s with platform := { s.platform with abortRules := [⟨⟨first, last⟩, size, kind, user⟩] } }

/-- The state with `ABORT_MODEL` updated. -/
def updating (s : State) : State := { s with platform := { s.platform with abortModel := .updated } }

/-- The state with `PC_STORE_OFFSET` set. -/
def storing (o : PcStoreOffset) (s : State) : State :=
  { s with platform := { s.platform with pcStoreOffset := some o } }

/-- The state with a range of addresses absent. -/
def lacking (first last : Nat) (s : State) : State :=
  { s with platform := { s.platform with absent := [⟨first, last⟩] } }

/-- The state with a range of addresses in `CODE_REGION`. -/
def coding (first last : Nat) (s : State) : State :=
  { s with platform := { s.platform with codeRegion := [⟨first, last⟩] } }

/-- The state at another address. -/
def atPc (a : Word) (s : State) : State := { s with pc := a }

/-- The state with every SPSR holding a word. -/
def saving (w : Word) (s : State) : State := { s with spsr := Banked.same (Psr.ofWord w) }

/-- The state with the hazard bit set. -/
def hazardous (s : State) : State := { s with afterUserTransfer := true }

-- encoding
theorem witness_DecodeOfEncode :
    WellFormed (.ldm3 .al .ia true (.r 13) 0x8000#16) = true ∧ WellFormed (.ldm2 .al .ia (.r 13) 0x7FFF#16) = true := by
  decide +kernel

theorem witness_EncodeOfDecode : decodeWord 0xE8FD9FFF#32 = .ok (.ldm3 .al .ia true (.r 13) 0x9FFF#16) := by
  decide +kernel

theorem witness_WordsOfNoInstructionAreRefused_condition :
    Fetches (storeInstruction 0xF3A00001#32 (start .user 0 [] [])) 0xF3A00001#32 ∧
      (0xF3A00001#32).extractLsb' 28 4 = 0b1111#4 := by decide +kernel

theorem witness_WordsOfNoInstructionAreRefused_row :
    Fetches (storeInstruction 0x01501000#32 (start .user 0 [] [])) 0x01501000#32 ∧
      (0x01501000#32).extractLsb' 28 4 ≠ 0b1111#4 ∧ ∀ r ∈ table, r.meets 0x01501000#32 = false := by decide +kernel

theorem witness_AssembledLinesMeanWhatIsWritten :
    let s := start .user 0 [] []
    let at4 : WrittenAddress := ⟨.r 1, .postIndexed, .imm true 4⟩
    assembleImmediate 0x3FC#32 = some (15#4, 0xFF#8) ∧ assembleImmediate 0x102#32 = none ∧
      (Passes .al s ∧ wordAligned s.pc = true ∧ HasNext s ∧
        (wordAligned 0x02008004#32 = true ∧ labelDistance s.pc 0x02008004#32 = 33554428) ∧
        (wordAligned 0xFE008008#32 = true ∧ labelDistance s.pc 0xFE008008#32 = -33554432)) ∧
      assemble s.pc (.branch false .al 0x02008008#32) = none ∧
      ∀ line ∈ ([.dataProcessing .add .al true (.r 0) (.r 1) (.register (.r 2) (.lsr 32)),
          .msrRegister false .al [.f, .c] (.r 0), .msrImmediate true .al 0xF0000000#32,
          .branch false .al 0x02008004#32, .branch true .al 0xFE008008#32, .mode1 .ldr .al .pc at4,
          .mode2 .strbt .al (.r 0) at4, .mode3 .ldrsh .al (.r 0) at4,
          .loadMultiple .al (.stack .fd) true (.r 13) [.pc, .r 4] true,
          .storeMultiple .al (.stack .fd) false (.r 13) [.r 14, .r 4] true, .plain (.swi .al 1#24)] : List Line),
        (assemble s.pc line).isSome = true := by decide +kernel

-- the step
theorem witness_StepRunsDecodedInstruction :
    let s := storeInstruction 0xE1A00001#32 (start (.exc .svc) 0 [] [])
    Fetches s 0xE1A00001#32 ∧ decodeWord 0xE1A00001#32 = .ok (.movShiftImm .al false (.r 0) (.r 1) .lsl 0#5) ∧
      s.afterUserTransfer = false := by decide +kernel

theorem witness_StepRunsDecodedInstruction_after_user_transfer :
    let s := hazardous (storeInstruction 0xE1A00001#32 (start (.exc .svc) 0 [] []))
    Fetches s 0xE1A00001#32 ∧ decodeWord 0xE1A00001#32 = .ok (.movShiftImm .al false (.r 0) (.r 1) .lsl 0#5) ∧
      namesBanked s.cpsr.m (.movShiftImm .al false (.r 0) (.r 1) .lsl 0#5) = false := by decide +kernel

theorem witness_StepEndsOrRefusesBeforeFetch :
    let s := start .user 0 [] []
    let e := { s with platform := { s.platform with endPc := some 0x8000#32 } }
    let t := { s with cpsr := { s.cpsr with t := true } }
    (pendingInterrupt (currentLines e.inputs) e.cpsr = none ∧ e.platform.endPc = some e.pc) ∧
      pendingInterrupt (currentLines t.inputs) t.cpsr = none ∧ t.platform.endPc ≠ some t.pc ∧ t.cpsr.t = true := by
  decide +kernel

theorem witness_InterruptEntry :
    let s := fun (irq fiq i f : Bool) =>
      let s := start .user 0 [] []
      { s with inputs := [⟨irq, fiq⟩], cpsr := { s.cpsr with i := i, f := f } }
    HasNext (s true true false false) ∧ HasNext (atPc 0xFFFFFFF8#32 (s true true true true)) ∧
      (s true true false false).inputs = [⟨true, true⟩] ∧ (s true true false false).cpsr.f = false ∧
      (s true false false false).inputs = [⟨true, false⟩] ∧ (s true false false false).cpsr.i = false ∧
      (s true true false true).cpsr.f = true ∧ (s true true false true).cpsr.i = false ∧
      (s true true true true).cpsr.f = true ∧ (s true true true true).cpsr.i = true := by decide +kernel

theorem witness_PrefetchAbortEntry :
    let s := aborting .fetch 4 true 0x8000 0x8000 (start .user 0 [] [])
    ReachesFetch s ∧ memAborts s.platform s.pc.toNat 4 .fetch (userMode s) = true ∧ HasNext s := by decide +kernel

theorem witness_HazardAfterUserTransfer_names :
    let s := hazardous (storeInstruction 0xE1A0100E#32 (start (.exc .svc) 0 [] []))
    let i : Instr := .movShiftImm .al false (.r 1) (.r 14) .lsl 0#5
    Fetches s 0xE1A0100E#32 ∧ decodeWord 0xE1A0100E#32 = .ok i ∧ s.afterUserTransfer = true ∧
      Reg.r 14 ∈ namedRegs i ∧ ∀ k, physReg s.cpsr.m 14 ≠ .user k := by decide +kernel

theorem witness_HazardAfterUserTransfer_fiq :
    let s := hazardous (storeInstruction 0xE1A01008#32 (start (.exc .fiq) 0 [] []))
    let i : Instr := .movShiftImm .al false (.r 1) (.r 8) .lsl 0#5
    Fetches s 0xE1A01008#32 ∧ decodeWord 0xE1A01008#32 = .ok i ∧ s.afterUserTransfer = true ∧
      Reg.r 8 ∈ namedRegs i ∧ ∀ k, physReg s.cpsr.m 8 ≠ .user k := by decide +kernel

theorem witness_HazardAfterUserTransfer_sets :
    let s := storeInstruction 0xE8D06000#32 (start (.exc .svc) 0 [(0, 0x9000#32)] [])
    let i : Instr := .ldm2 .al .ia (.r 0) 0x6000#16
    (nextOf (step s)).map (·.afterUserTransfer) = some true ∧
      blockForm? i = some ⟨true, false, .userBank, .al, .ia, false, .r 0, 0x6000#16⟩ ∧
      Passes .al s ∧ (nextOf (exec i s)).isSome = true := by decide +kernel

-- conditions
theorem witness_FailedConditionOnlyAdvances :
    let s := aborting .fetch 4 true 0x8000 0x8000 (storeInstruction 0x0A000000#32 (start .user 0 [] []))
    ¬ Passes (condOf (.b .eq 0#24)) s ∧ ReachesFetch s ∧
      memAborts s.platform s.pc.toNat 4 .fetch (userMode s) = true ∧ HasNext s ∧
      ¬ Passes (condOf (.b .eq 0#24)) (atPc 0xFFFFFFFC#32 s) := by decide +kernel

theorem witness_ConditionsAfterCompare :
    let s := start .user 0 [(0, 0x80000000#32)] []
    let i : Instr := .cmpImm .al (.r 0) 0#4 1#8
    dpForm? i = some ⟨.cmp, .al, true, none, some (.r 0), .imm 0#4 1#8⟩ ∧ Passes .al s ∧
      (nextOf (exec i s)).map nzcv = some 0b0011#4 := by decide +kernel

-- data processing
theorem witness_ShifterOperandByRegister :
    let s := fun (n : Word) => start .user 0b0010#4 [(1, 0x80000001#32), (2, n)] []
    (shifterOperand (.shiftReg (.r 1) .lsl (.r 2)) (s 0#32)) = (0x80000001#32, true) ∧
      (shifterOperand (.shiftReg (.r 1) .lsl (.r 2)) (s 32#32)) = (0#32, true) ∧
      (shifterOperand (.shiftReg (.r 1) .lsl (.r 2)) (s 33#32)) = (0#32, false) ∧
      (shifterOperand (.shiftReg (.r 1) .lsr (.r 2)) (s 32#32)) = (0#32, true) ∧
      (shifterOperand (.shiftReg (.r 1) .lsr (.r 2)) (s 255#32)) = (0#32, false) ∧
      (shifterOperand (.shiftReg (.r 1) .asr (.r 2)) (s 255#32)) = (0xFFFFFFFF#32, true) ∧
      (shifterOperand (.shiftReg (.r 1) .ror (.r 2)) (s 32#32)) = (0x80000001#32, true) ∧
      (shifterOperand (.shiftReg (.r 1) .ror (.r 2)) (s 256#32)) = (0x80000001#32, true) := by decide +kernel

theorem witness_R15InOperand2 :
    let s := start .user 0 [] []
    Passes .al s ∧
      dpForm? (.addShiftReg .al false .pc (.r 1) (.r 2) .lsl (.r 3)) =
        some ⟨.add, .al, false, some .pc, some (.r 1), .shiftReg (.r 2) .lsl (.r 3)⟩ ∧
      dpForm? (.addShiftReg .al false (.r 0) .pc (.r 2) .lsl (.r 3)) =
        some ⟨.add, .al, false, some (.r 0), some .pc, .shiftReg (.r 2) .lsl (.r 3)⟩ ∧
      dpForm? (.cmpShiftReg .al (.r 0) .pc .lsl (.r 3)) =
        some ⟨.cmp, .al, true, none, some (.r 0), .shiftReg .pc .lsl (.r 3)⟩ ∧
      dpForm? (.movShiftReg .al false (.r 0) (.r 2) .lsl .pc) =
        some ⟨.mov, .al, false, some (.r 0), none, .shiftReg (.r 2) .lsl .pc⟩ := by decide +kernel

theorem witness_ArithmeticWritesRegister :
    let s := atPc 0xFFFFFFF8#32 (start .user 0 [] [])
    let o : Operand2 := .shiftReg (.r 0) .ror (.r 0)
    dpForm? (.rscShiftReg .al true (.r 0) (.r 0) (.r 0) .ror (.r 0)) =
        some ⟨.rsc, .al, true, some (.r 0), some (.r 0), o⟩ ∧
      isArithmetic .rsc = true ∧ Passes .al s ∧ o.forbidsPc [.r 0, .r 0] = false ∧ HasNext s := by decide +kernel

theorem witness_LogicalAndMoveWriteRegister :
    let s := start (.exc .fiq) 0 [] []
    let o : Operand2 := .shiftImm .pc .lsr 0#5
    dpForm? (.movShiftImm .al true (.r 14) .pc .lsr 0#5) = some ⟨.mov, .al, true, some (.r 14), none, o⟩ ∧
      isArithmetic .mov = false ∧ Passes .al s ∧ o.forbidsPc [.r 14] = false ∧ HasNext s := by decide +kernel

theorem witness_CompareSetsFlags :
    let s := start .user 0 [] []
    dpForm? (.tstImm .al .pc 0#4 1#8) = some ⟨.tst, .al, true, none, some .pc, .imm 0#4 1#8⟩ ∧ Passes .al s ∧
      (Operand2.imm 0#4 1#8).forbidsPc [.pc] = false ∧ HasNext s := by decide +kernel

theorem witness_WriteToR15Jumps :
    let s := fun (v : Word) => start .user 0 [(14, v)] []
    let o : Operand2 := .shiftImm (.r 14) .lsl 0#5
    let v := fun (s : State) => dpValue .mov (firstOperand none s) (shifterOperand o s).1 s.cpsr.c
    dpForm? (.movShiftImm .al false .pc (.r 14) .lsl 0#5) = some ⟨.mov, .al, false, some .pc, none, o⟩ ∧
      Passes .al (s 0#32) ∧ o.forbidsPc [.pc] = false ∧
      (v (s 0x8100#32)).extractLsb' 0 2 = 0#2 ∧ (v (s 0x8101#32)).extractLsb' 0 2 ≠ 0#2 := by decide +kernel

theorem witness_WriteToR15WithSReturns :
    let s := fun (m : Mode) (spsr v : Word) => saving spsr (start m 0 [(14, v)] [])
    let o : Operand2 := .shiftImm (.r 14) .lsl 0#5
    let v := fun (s : State) => dpValue .mov (firstOperand none s) (shifterOperand o s).1 s.cpsr.c
    let p := fun (s : State) => s.spsr.get .svc
    dpForm? (.movShiftImm .al true .pc (.r 14) .lsl 0#5) = some ⟨.mov, .al, true, some .pc, none, o⟩ ∧
      Passes .al (s .user 0#32 0#32) ∧ o.forbidsPc [.pc] = false ∧
      ¬ HasSpsr (s .user 0x10#32 0#32).cpsr.m ∧ ¬ HasSpsr (s .system 0x10#32 0#32).cpsr.m ∧
      (p (s (.exc .svc) 0x30#32 0#32)).t = true ∧
      ((p (s (.exc .svc) 0x14#32 0#32)).t = false ∧ Mode.ofBits (p (s (.exc .svc) 0x14#32 0#32)).m = none) ∧
      (Mode.ofBits (p (s (.exc .svc) 0x10#32 2#32)).m = some .user ∧
        (v (s (.exc .svc) 0x10#32 2#32)).extractLsb' 0 2 ≠ 0#2) ∧
      (v (s (.exc .svc) 0x10#32 0x8100#32)).extractLsb' 0 2 = 0#2 := by decide +kernel

-- status registers
theorem witness_MrsReadsStatus :
    Passes .al (start .user 0 [] []) ∧ HasNext (start .user 0 [] []) ∧
      (start (.exc .und) 0 [] []).cpsr.m = .exc .und := by decide +kernel

theorem witness_MsrWritesSelectedFields :
    let s := start (.exc .svc) 0 [(0, 0x20#32), (1, 0x14#32), (2, 0x9FFFFF50#32)] []
    let x := fun (n : Fin 15) => readGeneral s n
    Passes .al s ∧ HasNext s ∧ userMode s = false ∧
      (x 0).getLsbD 5 ≠ s.cpsr.t ∧
      ((x 1).getLsbD 5 = s.cpsr.t ∧ Mode.ofBits ((x 1).extractLsb' 0 5) = none) ∧
      ((x 2).getLsbD 5 = s.cpsr.t ∧ Mode.ofBits ((x 2).extractLsb' 0 5) = some .user) ∧
      ((1#4).getLsbD 0 && !userMode (start .user 0 [] [])) = false ∧
      ¬ HasSpsr (start .system 0 [] []).cpsr.m := by decide +kernel

theorem witness_StatusAccessRefusals :
    Passes .al (start .user 0 [] []) ∧ ¬ HasSpsr (start .user 0 [] []).cpsr.m := by decide +kernel

theorem witness_FlagWriters :
    let s := start .user 0 [] []
    (nextOf (exec (.movImm .al true (.r 0) 0#4 0#8) s)).map (fun t => t.cpsr.z != s.cpsr.z) = some true := by
  decide +kernel

-- multiplies
theorem witness_MultiplyWritesRegister :
    (0 : Fin 15) ≠ 1 ∧ Passes .al (start .user 0 [] []) ∧ HasNext (start .user 0 [] []) := by decide +kernel

theorem witness_LongMultiplyWritesPair :
    (1 : Fin 15) ≠ 0 ∧ (1 : Fin 15) ≠ 2 ∧ (0 : Fin 15) ≠ 2 ∧ Passes .al (start .user 0 [] []) ∧
      HasNext (start .user 0 [] []) := by decide +kernel

theorem witness_MultiplyRestrictions :
    Passes .al (start .user 0 [] []) ∧ stop 0xE001029F#32 (start .user 0 [] []) = some .r15Operand ∧
      stop 0xE0000290#32 (start .user 0 [] []) = some .mulRdEqualsRm ∧
      stop 0xE0800291#32 (start .user 0 [] []) = some .mulLongOverlap ∧
      stop 0xE0810290#32 (start .user 0 [] []) = some .mulLongOverlap ∧
      stop 0xE0801290#32 (start .user 0 [] []) = some .mulLongOverlap := by decide +kernel

-- branches
theorem witness_BranchAndBranchWithLink :
    Passes .al (start .user 0 [] []) ∧ HasNext (atPc 0xFFFFFFF8#32 (start .user 0 [] [])) ∧
      ¬ HasNext (atPc 0xFFFFFFFC#32 (start .user 0 [] [])) ∧ wordAligned (start .user 0 [] []).pc = true := by
  decide +kernel

theorem witness_BranchExchange :
    let s := start .user 0 [(0, 0x8100#32), (1, 0x8103#32), (2, 0x8102#32)] []
    Passes .al s ∧ (readReg s (.r 0)).extractLsb' 0 2 = 0#2 ∧ (readReg s (.r 1)).getLsbD 0 = true ∧
      (readReg s (.r 2)).getLsbD 0 = false ∧ (readReg s (.r 2)).getLsbD 1 = true := by decide +kernel

-- memory
theorem witness_MemoryReadAndWrite :
    let s := start .user 0 [] []
    (0x9001#32).toNat % Size.half.bytes ≠ 0 ∧
      ((0xFFFFFFFC#32).toNat % Size.word.bytes = 0 ∧
        ∃ k < Size.word.bytes, ∃ r ∈ (lacking 0xFFFFFFFF 0xFFFFFFFF s).platform.absent,
          r.holds ((0xFFFFFFFC#32).toNat + k) = true) ∧
      (Reachable (coding 0x9003 0x9003 s) 0x9000#32 Size.word.bytes ∧
        ∃ k < Size.word.bytes, ∃ r ∈ (coding 0x9003 0x9003 s).platform.codeRegion,
          r.holds ((0x9000#32).toNat + k) = true) ∧
      (Reachable (aborting .read 4 true 0x9000 0x9000 s) 0x9000#32 Size.word.bytes ∧
        memAborts (aborting .read 4 true 0x9000 0x9000 s).platform 0x9000 4 .read true = true) ∧
      (¬ InCode (aborting .write 1 true 0x9000 0x9000 s) 0x9000 1 ∧
        memAborts (aborting .write 1 true 0x9000 0x9000 s).platform 0x9000 1 .write true = true) ∧
      CanRead s 0xFFFFFFFC#32 Size.word.bytes true ∧ CanWrite s 0xFFFFFFFF#32 Size.byte.bytes true := by decide +kernel

theorem witness_CodeRegionNeverChanges :
    let s := coding 0x8000 0x8003 (storeInstruction 0xE5810000#32 (start .user 0 [(1, 0xA000#32)] []))
    (∀ t ∈ [State.reset, s], (nextOf (step t)).isSome = true) ∧ InCode s 0x8003 1 := by decide +kernel

-- single transfers
theorem witness_LoadsWriteRegister :
    let s := start .user 0 [(1, 0xFFFFFFFE#32)] []
    let f : TransferForm := ⟨.al, .half, true, false, .postIndexed, true, .r 0, .r 1, .imm 0xFF#32⟩
    loadForm? (.ldrshImmPost .al true (.r 0) (.r 1) 0xFF#8) = some f ∧ ¬ f.Restricted ∧ Passes f.cond s ∧
      CanRead s (f.address s) f.size.bytes (f.user s) ∧ HasNext s := by decide +kernel

theorem witness_LoadToR15Jumps :
    let s := start .user 0 [(1, 0x9000#32)] [(0x9000, 0x8100#32), (0x9004, 0x8101#32)]
    let f : TransferForm := ⟨.al, .word, false, false, .postIndexed, true, .pc, .r 1, .imm 4#32⟩
    let g : TransferForm := ⟨.al, .word, false, false, .plain, true, .pc, .r 1, .imm 4#32⟩
    (loadForm? (.ldrImmPost .al true .pc (.r 1) 4#12) = some f ∧ f.MayNamePc ∧ ¬ f.Restricted ∧ Passes f.cond s ∧
        CanRead s (f.address s) 4 (f.user s) ∧ wordAligned (wordAt s.mem (f.address s).toNat) = true) ∧
      loadForm? (.ldrImm .al true false .pc (.r 1) 4#12) = some g ∧ g.MayNamePc ∧ ¬ g.Restricted ∧
        CanRead s (g.address s) 4 (g.user s) ∧ wordAligned (wordAt s.mem (g.address s).toNat) = false := by
  decide +kernel

theorem witness_StoresWriteMemory :
    let s := start .user 0 [(0, 0x55#32), (1, 0xA000#32)] []
    let f : TransferForm := ⟨.al, .word, false, true, .postIndexed, true, .r 0, .r 1, .imm 4#32⟩
    let g : TransferForm := ⟨.al, .word, false, false, .preIndexed, false, .pc, .r 1, .imm 4#32⟩
    (storeForm? (.strtImm .al true (.r 0) (.r 1) 4#12) = some f ∧ ¬ f.Restricted ∧ Passes f.cond s ∧
        CanWrite s (f.address s) f.size.bytes (f.user s) ∧ HasNext s) ∧
      storeForm? (.strImm .al false true .pc (.r 1) 4#12) = some g ∧ ¬ g.Restricted ∧ g.MayNamePc ∧
        (storing .plus8 s).platform.pcStoreOffset = some .plus8 ∧
        (storing .plus12 s).platform.pcStoreOffset = some .plus12 ∧
        CanWrite (storing .plus12 s) (g.address s) g.size.bytes (g.user s) := by decide +kernel

theorem witness_TransferRestrictions :
    let form := fun (i : Instr) => (loadForm? i).orElse fun _ => storeForm? i
    let f : TransferForm := ⟨.al, .word, false, false, .plain, true, .r 0, .r 1, .reg .pc .lsl 0#5⟩
    let g : TransferForm := ⟨.al, .word, false, false, .preIndexed, true, .r 0, .pc, .imm 0#32⟩
    let h : TransferForm := ⟨.al, .word, false, false, .preIndexed, true, .r 1, .r 1, .imm 0#32⟩
    let h' : TransferForm := ⟨.al, .half, false, false, .postIndexed, true, .r 0, .r 1, .plainReg (.r 1)⟩
    let k : TransferForm := ⟨.al, .byte, false, false, .plain, true, .pc, .r 1, .imm 0#32⟩
    let l : TransferForm := ⟨.al, .word, false, false, .plain, true, .pc, .r 1, .imm 0#32⟩
    Passes .al (start .user 0 [] []) ∧
      (form (.ldrReg .al true false (.r 0) (.r 1) .pc .lsl 0#5) = some f ∧ f.off.register? = some .pc) ∧
      (form (.ldrImm .al true true (.r 0) .pc 0#12) = some g ∧ g.off.register? ≠ some .pc ∧ g.ix.writesBack = true) ∧
      (form (.strImm .al true true (.r 1) (.r 1) 0#12) = some h ∧ h.ix.writesBack = true ∧ h.rn ≠ .pc) ∧
      (form (.ldrhRegPost .al true (.r 0) (.r 1) (.r 1)) = some h' ∧ h'.off.register? = some h'.rn) ∧
      (form (.ldrbImm .al true false .pc (.r 1) 0#12) = some k ∧ ¬ k.Restricted ∧ ¬ k.MayNamePc) ∧
      form (.strImm .al true false .pc (.r 1) 0#12) = some l ∧ ¬ l.Restricted ∧ l.MayNamePc ∧
        (start .user 0 [] []).platform.pcStoreOffset = none := by decide +kernel

theorem witness_MisalignedAccessIsRefused :
    let s := start .user 0 [(1, 0x9001#32), (2, 0x9002#32), (3, 0x9003#32)] []
    let f : TransferForm := ⟨.al, .half, false, false, .plain, true, .r 0, .r 1, .imm 0#32⟩
    let g : TransferForm := ⟨.al, .word, false, false, .plain, true, .r 0, .r 2, .imm 0#32⟩
    (loadForm? (.ldrhImm .al true false (.r 0) (.r 1) 0#8) = some f ∧ Passes f.cond s ∧ ¬ f.Restricted ∧
        (f.address s).toNat % f.size.bytes ≠ 0) ∧
      (storeForm? (.strImm .al true false (.r 0) (.r 2) 0#12) = some g ∧ ¬ g.Restricted ∧
        (g.address s).toNat % g.size.bytes ≠ 0) ∧
      (blockForm? (.ldm1 .al .ia false (.r 3) 1#16) = some ⟨true, false, .current, .al, .ia, false, .r 3, 1#16⟩ ∧
        (readGeneral s 3).toNat % 4 ≠ 0) ∧
      (2 : Fin 15) ≠ 0 ∧ (2 : Fin 15) ≠ 1 ∧ (readGeneral s 2).toNat % 4 ≠ 0 := by decide +kernel

theorem witness_DataAbortOfTransfer :
    let s := aborting .read 4 true 0x9000 0x9003 (start .user 0 [(1, 0x9000#32)] [])
    let t := updating (aborting .write 1 true 0x9000 0x9003 (start (.exc .svc) 0 [(1, 0x9000#32)] []))
    let f : TransferForm := ⟨.al, .word, false, false, .postIndexed, true, .pc, .r 1, .imm 4#32⟩
    let g : TransferForm := ⟨.al, .byte, false, true, .postIndexed, true, .r 0, .r 1, .imm 4#32⟩
    (loadForm? (.ldrImmPost .al true .pc (.r 1) 4#12) = some f ∧ Passes f.cond s ∧ ¬ f.Restricted ∧ f.MayNamePc ∧
        Reachable s (f.address s) f.size.bytes ∧ s.pc.toNat + 8 < 2 ^ 32 ∧
        memAborts s.platform (f.address s).toNat f.size.bytes .read (f.user s) = true) ∧
      storeForm? (.strbtImm .al true (.r 0) (.r 1) 4#12) = some g ∧ Passes g.cond t ∧ ¬ g.Restricted ∧ g.rd ≠ .pc ∧
        Reachable t (g.address t) g.size.bytes ∧ t.pc.toNat + 8 < 2 ^ 32 ∧ t.platform.abortModel = .updated ∧
        ¬ InCode t (g.address t).toNat g.size.bytes ∧
        memAborts t.platform (g.address t).toNat g.size.bytes .write (g.user t) = true := by decide +kernel

-- swaps
theorem witness_SwapExchanges :
    let s := start .user 0 [(2, 0xFFFFFFFC#32)] []
    Passes .al s ∧ (2 : Fin 15) ≠ 0 ∧ (2 : Fin 15) ≠ 1 ∧ HasNext s ∧
      CanRead s (readGeneral s 2) Size.word.bytes (userMode s) ∧
      CanWrite s (readGeneral s 2) Size.word.bytes (userMode s) ∧
      CanRead s (readGeneral s 2) Size.byte.bytes (userMode s) ∧
      CanWrite s (readGeneral s 2) Size.byte.bytes (userMode s) := by decide +kernel

theorem witness_SwapRestrictionsAndAborts :
    let s := aborting .read 4 true 0x9000 0x9000 (start .user 0 [(2, 0x9000#32)] [])
    let t := aborting .write 1 true 0x9001 0x9001 (start .user 0 [(2, 0x9001#32)] [])
    Passes .al s ∧ (2 : Fin 15) ≠ 0 ∧ (2 : Fin 15) ≠ 1 ∧ s.pc.toNat + 8 < 2 ^ 32 ∧
      (Reachable s (readGeneral s 2) Size.word.bytes ∧
        memAborts s.platform (readGeneral s 2).toNat Size.word.bytes .read (userMode s) = true) ∧
      Reachable t (readGeneral t 2) Size.byte.bytes ∧ ¬ InCode t (readGeneral t 2).toNat Size.byte.bytes ∧
        memAborts t.platform (readGeneral t 2).toNat Size.byte.bytes .write (userMode t) = true := by decide +kernel

-- block transfers
theorem witness_LoadMultiple :
    let s := fun (b jump : Word) => start .user 0 [(0, b)] [(0x9008, jump)]
    let meets := fun (mode : BlockMode) (list : BitVec 16) (s : State) =>
      decide (Passes .al s ∧ BlockOk mode (readGeneral s 0) list ∧ AllReadable s mode (readGeneral s 0) list)
    let v := fun (s : State) => wordAt s.mem (slotAddress .ia (readGeneral s 0) 0x800E#16 15)
    ((0x800E#16).getLsbD (0 : Fin 15).val = false ∧ (0x800E#16).getLsbD 15 = true) ∧
      (wordAligned (v (s 0x8FFC#32 0x8100#32)) = true ∧ meets .ia 0x800E#16 (s 0x8FFC#32 0x8100#32)) ∧
      (wordAligned (v (s 0x8FFC#32 0x8102#32)) = false ∧ meets .ia 0x800E#16 (s 0x8FFC#32 0x8102#32)) ∧
      (meets .ib 0x0003#16 (s 0xFFFFFFF4#32 0#32) ∧ HasNext (s 0xFFFFFFF4#32 0#32)) ∧
      meets .db 0x0003#16 (s 0x8#32 0#32) ∧ (0x0003#16).getLsbD 15 = false ∧ HasNext (s 0x8#32 0#32) := by
  decide +kernel

theorem witness_LoadMultipleRestoresCpsr :
    let s := fun (saved jump : Word) => saving saved (start (.exc .svc) 0 [(13, 0x9000#32)] [(0x9004, jump)])
    let meets := fun (s : State) =>
      decide (Passes .al s ∧ BlockOk .ia (readGeneral s 13) 0x8001#16 ∧
        AllReadable s .ia (readGeneral s 13) 0x8001#16 ∧ s.cpsr.m = .exc .svc)
    let v := fun (s : State) => wordAt s.mem (slotAddress .ia (readGeneral s 13) 0x8001#16 15)
    let p := fun (s : State) => s.spsr.get .svc
    ((0x8001#16).getLsbD (13 : Fin 15).val = false ∧ (0x8001#16).getLsbD 15 = true) ∧
      (let t := s 0x00000034#32 0x8101#32
       meets t ∧ (p t).t = true) ∧
      (let t := s 0x00000014#32 0x8101#32
       meets t ∧ (p t).t = false ∧ Mode.ofBits (p t).m = none) ∧
      (let t := s 0x40000010#32 0x8101#32
       meets t ∧ (p t).t = false ∧ Mode.ofBits (p t).m = some .user ∧ wordAligned (v t) = false) ∧
      let t := s 0x40000010#32 0x8100#32
      meets t ∧ (p t).t = false ∧ Mode.ofBits (p t).m = some .user ∧ wordAligned (v t) = true := by
  decide +kernel

theorem witness_LoadMultipleUserBank :
    let s := start (.exc .irq) 0 [(0, 0x9000#32)] []
    Passes .al s ∧ HasSpsr s.cpsr.m ∧ BlockOk .da 0x9000#32 0x7FFF#16 ∧ AllReadable s .da 0x9000#32 0x7FFF#16 ∧
      (0x7FFF#16).getLsbD 15 = false ∧ HasNext s := by decide +kernel

theorem witness_StoreMultiple :
    let s := storing .plus12 (start .user 0 [(0, 0xA000#32)] [])
    Passes .al s ∧ BlockOk .db 0xA000#32 0xFFFF#16 ∧ slotOf 0xFFFF#16 (0 : Fin 15).val = 0 ∧
      s.platform.pcStoreOffset ≠ none ∧ AllWritable s .db 0xA000#32 0xFFFF#16 ∧ HasNext s := by decide +kernel

theorem witness_StoreMultipleUserBank :
    let s := start (.exc .fiq) 0 [(8, 0xA000#32)] []
    Passes .al s ∧ HasSpsr s.cpsr.m ∧ BlockOk .ia 0xA000#32 0x7F00#16 ∧ (0x7F00#16).getLsbD 15 = false ∧
      AllWritable s .ia 0xA000#32 0x7F00#16 ∧ HasNext s := by decide +kernel

theorem witness_DataAbortInBlock_load :
    let s := aborting .read 4 true 0x9008 0x9008 (start .user 0 [(0, 0x9000#32)] [])
    let b := readGeneral s 0
    let f : BlockForm := ⟨true, false, .current, .al, .ia, true, .r 0, 0x800E#16⟩
    blockForm? (.ldm1 .al .ia true (.r 0) 0x800E#16) = some f ∧ Passes f.cond s ∧
      BlockOk f.mode b f.list ∧ f.list.getLsbD 3 = true ∧ f.list.getLsbD (0 : Fin 15).val = false ∧
      Reachable s (BitVec.ofNat 32 (slotAddress f.mode b f.list 3)) 4 ∧ s.pc.toNat + 8 < 2 ^ 32 ∧
      (∀ j < 3, f.list.getLsbD j = true →
        CanRead s (BitVec.ofNat 32 (slotAddress f.mode b f.list j)) 4 (userMode s)) ∧
      memAborts s.platform (BitVec.ofNat 32 (slotAddress f.mode b f.list 3)).toNat 4 .read (userMode s) = true := by decide +kernel

theorem witness_DataAbortInBlock_store :
    let s := aborting .write 4 false 0xA000 0xA000 (start (.exc .svc) 0 [(0, 0xA004#32)] [])
    let f : BlockForm := ⟨false, false, .userBank, .al, .db, false, .r 0, 0x6000#16⟩
    blockForm? (.stm2 .al .db (.r 0) 0x6000#16) = some f ∧ Passes f.cond s ∧
      BlockOk f.mode (readGeneral s 0) f.list ∧ HasSpsr s.cpsr.m ∧ f.list.getLsbD 14 = true ∧
      Reachable s (BitVec.ofNat 32 (slotAddress f.mode (readGeneral s 0) f.list 14)) 4 ∧ s.pc.toNat + 8 < 2 ^ 32 ∧
      f.list.getLsbD 15 = false ∧
      (∀ j < 14, f.list.getLsbD j = true →
        CanWrite s (BitVec.ofNat 32 (slotAddress f.mode (readGeneral s 0) f.list j)) 4 (userMode s)) ∧
      ¬ InCode s (BitVec.ofNat 32 (slotAddress f.mode (readGeneral s 0) f.list 14)).toNat 4 ∧
      memAborts s.platform (BitVec.ofNat 32 (slotAddress f.mode (readGeneral s 0) f.list 14)).toNat 4 .write
        (userMode s) = true := by decide +kernel

theorem witness_DataAbortInBlock_store_updated :
    let s := updating (aborting .write 4 true 0xA004 0xA004 (start .user 0 [(0, 0xA000#32)] []))
    let f : BlockForm := ⟨false, false, .current, .al, .ia, true, .r 0, 0x0006#16⟩
    blockForm? (.stm1 .al .ia true (.r 0) 0x0006#16) = some f ∧ Passes f.cond s ∧
      BlockOk f.mode (readGeneral s 0) f.list ∧ f.restore = false ∧ f.bank ≠ .userBank ∧ f.list.getLsbD 2 = true ∧
      Reachable s (BitVec.ofNat 32 (slotAddress f.mode (readGeneral s 0) f.list 2)) 4 ∧ s.pc.toNat + 8 < 2 ^ 32 ∧
      f.list.getLsbD (0 : Fin 15).val = false ∧ f.list.getLsbD 15 = false ∧
      (∀ j < 2, f.list.getLsbD j = true →
        CanWrite s (BitVec.ofNat 32 (slotAddress f.mode (readGeneral s 0) f.list j)) 4 (userMode s)) ∧
      ¬ InCode s (BitVec.ofNat 32 (slotAddress f.mode (readGeneral s 0) f.list 2)).toNat 4 ∧
      memAborts s.platform (BitVec.ofNat 32 (slotAddress f.mode (readGeneral s 0) f.list 2)).toNat 4 .write
        (userMode s) = true ∧
      (s.platform.abortModel = .updated ∧ f.wb = true) ∧
      (nextOf (exec (.stm1 .al .ia true (.r 0) 0x0006#16) s)).map (readGeneral · 0) = some 0xA008#32 := by decide +kernel

theorem witness_BlockRestrictions_forms :
    Passes .al (start .user 0 [] []) ∧ ¬ HasSpsr (start .user 0 [] []).cpsr.m ∧
      blockForm? (.ldm1 .al .ia true (.r 0) 0#16) = some ⟨true, false, .current, .al, .ia, true, .r 0, 0#16⟩ ∧
      blockForm? (.stm1 .al .ia true .pc 1#16) = some ⟨false, false, .current, .al, .ia, true, .pc, 1#16⟩ ∧
      blockForm? (.ldm3 .al .ia false (.r 0) 0x8000#16) = some ⟨true, true, .current, .al, .ia, false, .r 0, 0x8000#16⟩ ∧
      blockForm? (.ldm2 .al .ia (.r 0) 1#16) = some ⟨true, false, .userBank, .al, .ia, false, .r 0, 1#16⟩ := by
  decide +kernel

theorem witness_BlockRestrictions_values :
    let s := start .user 0 [(0, 0xFFFFFFFC#32), (1, 4#32)] []
    let first := fun (mode : BlockMode) (n : Fin 15) (list : BitVec 16) =>
      blockStart mode (readGeneral s n).toNat (slotOf list 16)
    Passes .al s ∧ ¬ HasSpsr s.cpsr.m ∧ s.platform.pcStoreOffset = none ∧
      ((readGeneral s 0).toNat % 4 = 0 ∧ (readGeneral s 1).toNat % 4 = 0) ∧
      -- LDM and STM with write-back whose list holds the base, not first
      (blockForm? (.ldm1 .al .ia true (.r 1) 3#16) = some ⟨true, false, .current, .al, .ia, true, .r 1, 3#16⟩ ∧
        blockForm? (.stm1 .al .ia true (.r 1) 3#16) = some ⟨false, false, .current, .al, .ia, true, .r 1, 3#16⟩ ∧
        (3#16).getLsbD (1 : Fin 15).val = true ∧ slotOf 3#16 (1 : Fin 15).val ≠ 0) ∧
      -- a store of R15
      (blockForm? (.stm1 .al .ia true (.r 0) 0x8000#16) =
          some ⟨false, false, .current, .al, .ia, true, .r 0, 0x8000#16⟩ ∧
        (0x8000#16).getLsbD (0 : Fin 15).val = false ∧ (0x8000#16).getLsbD 15 = true) ∧
      -- transfers that run past the top and below the bottom of the address space
      (blockForm? (.stm1 .al .ia true (.r 0) 6#16) = some ⟨false, false, .current, .al, .ia, true, .r 0, 6#16⟩ ∧
        (6#16).getLsbD (0 : Fin 15).val = false ∧ (6#16).getLsbD 15 = false ∧
        (2 : Int) ^ 32 < first .ia 0 6#16 + 4 * (slotOf 6#16 16 : Nat)) ∧
      blockForm? (.ldm1 .al .db false (.r 1) 6#16) = some ⟨true, false, .current, .al, .db, false, .r 1, 6#16⟩ ∧
        first .db 1 6#16 < 0 := by decide +kernel

theorem witness_PushThenPopRestoresRegisters :
    let s := start .user 0 [(13, 0xA000#32)] []
    (∀ m ∈ [BlockMode.db, .ib, .ia, .da], BlockOk m 0xA000#32 0x5FFF#16 ∧ AllWritable s m 0xA000#32 0x5FFF#16) ∧
      (0x5FFF#16).getLsbD (13 : Fin 15).val = false ∧ (0x5FFF#16).getLsbD 15 = false ∧
      4 * slotOf 0x5FFF#16 16 ≤ 0xA000 ∧ s.platform.abortRules = [] ∧ s.pc.toNat + 8 < 2 ^ 32 := by decide +kernel

-- exceptions
theorem witness_TrapsTakeTheirException : Passes .al (start .user 0 [] []) ∧ HasNext (start .user 0 [] []) := by
  decide +kernel

theorem witness_ExceptionEntry :
    let s := fun (a : Word) => atPc a (start .user 0 [] [])
    (s 0xFFFFFFF8#32).pc.toNat + 4 < 2 ^ 32 ∧ (s 0xFFFFFFF4#32).pc.toNat + 8 < 2 ^ 32 ∧
      2 ^ 32 ≤ (s 0xFFFFFFF8#32).pc.toNat + 8 ∧ 2 ^ 32 ≤ (s 0xFFFFFFFC#32).pc.toNat + 4 := by decide +kernel

theorem witness_ReturnResumesAfterException :
    let s := atPc 0xFFFFFFF4#32 (start (.exc .svc) 0 [] [])
    wordAligned s.pc = true ∧ s.cpsr.t = false ∧ s.pc.toNat + 8 < 2 ^ 32 := by decide +kernel

-- the whole machine
theorem witness_StepKeepsInvariant :
    let s := storeInstruction 0xE8D06000#32 (start (.exc .svc) 0 [(0, 0x9000#32)] [])
    Inv s ∧ (nextOf (step s)).map (·.afterUserTransfer) = some true := by decide +kernel

theorem witness_RegisterBanks :
    physReg (.exc .fiq) 7 = .user 7 ∧ physReg (.exc .irq) 12 = .user 12 ∧ physReg (.exc .fiq) 8 = .fiqHigh 0 ∧
      physReg .system 13 = .user 13 ∧ physReg (.exc .abt) 13 = .r13 .abt ∧ physReg (.exc .und) 14 = .r14 .und := by
  decide +kernel

theorem witness_UserModeIsConfined :
    let s := start .user 0 [] []
    s.cpsr.m = .user ∧ (after 0xE121F000#32 s).map (·.cpsr.m) = some .user ∧
      (after 0xEF000000#32 s).map (·.cpsr.m) = some (.exc .svc) := by decide +kernel

theorem witness_BankedRegistersKeepTheirValues :
    let s := start .user 0 [] []
    let t := start (.exc .svc) 0 [] []
    ((after 0xE3A0D001#32 s).isSome = true ∧ ∀ n, physReg s.cpsr.m n ≠ .r13 .svc) ∧
      ((after 0xE3A0D001#32 t).isSome = true ∧ ∀ n, physReg t.cpsr.m n ≠ .user 13) := by decide +kernel

theorem witness_BankedRegistersKeepTheirValues_written :
    let s := start .user 0 [] []
    let t := start (.exc .svc) 0 [(0, 0x9000#32)] [(0x9000, 7#32)]
    ((after 0xEF000000#32 s).map (·.regs.get (.r14 .svc)) = some 0x8004#32 ∧
        ∀ n, physReg s.cpsr.m n ≠ .r14 .svc) ∧
      (after 0xE8D02000#32 t).map (·.regs.get (.user 13)) = some 7#32 ∧ ∀ n, physReg t.cpsr.m n ≠ .user 13 := by
  decide +kernel

end Sys2Proof.Tests
end

section
/-! The table of 10_state.md R32 row by row, for `physReg`, and the statement on register selection (R33). -/

namespace Sys2Proof.Machine

open Sys2Proof.Safety

/-! ## One lemma per row of the register table (10_state.md R32) -/

theorem physReg_of_le_seven (m : Mode) {n : Fin 15} (h : n.val ≤ 7) : physReg m n = .user n := by
  simp [physReg, h]

/-- R8 to R12 are banked in FIQ mode only. -/
theorem physReg_of_ne_fiq {m : Mode} {n : Fin 15} (h : n.val ≤ 12) (hm : m ≠ .exc .fiq) : physReg m n = .user n := by
  simp [physReg, h]

theorem physReg_fiq {n : Fin 15} (h8 : 8 ≤ n.val) (h12 : n.val ≤ 12) :
    physReg (.exc .fiq) n = .fiqHigh ⟨n.val - 8, by omega⟩ := by
  have h7 : ¬ n.val ≤ 7 := by omega
  simp [physReg, h7, h12]

/-- User and System mode, the modes without an SPSR, share one bank: no number is banked there. -/
theorem physReg_of_not_hasSpsr {m : Mode} (n : Fin 15) (hm : ¬ HasSpsr m) : physReg m n = .user n := by
  cases m with
  | user => simp [physReg]
  | system => simp [physReg]
  | exc e => exact absurd ⟨Mode.noConfusion, Mode.noConfusion⟩ hm

theorem physReg_exc_thirteen (e : ExcMode) {n : Fin 15} (h : n.val = 13) : physReg (.exc e) n = .r13 e := by
  simp [physReg, h]

theorem physReg_exc_fourteen (e : ExcMode) {n : Fin 15} (h : n.val = 14) : physReg (.exc e) n = .r14 e := by
  simp [physReg, h]

/-! ## A write through a number, seen from the register file (10_state.md R33) -/

theorem writeGeneral_get_same (s : State) (n : Fin 15) (v : Word) :
    (writeGeneral s n v).regs.get (physReg s.cpsr.m n) = v :=
  RegFile.get_set_same _ _ _

theorem writeGeneral_get_other (s : State) {n : Fin 15} {p : PhysReg} (v : Word) (h : p ≠ physReg s.cpsr.m n) :
    (writeGeneral s n v).regs.get p = s.regs.get p :=
  RegFile.get_set_other _ _ h

/-- Settles O58: the table holds row by row, and a read or a write through a number reaches the register it names. -/
theorem registerBanks : Obligations.RegisterBanks := by
  refine ⟨fun m n => ⟨physReg_of_le_seven m, fun _ h12 hm => physReg_of_ne_fiq h12 hm, ?fiqHigh,
      fun _ hm => physReg_of_not_hasSpsr n hm, ?r13, ?r14⟩,
    fun s n v => ⟨rfl, writeGeneral_get_same s n v, fun _ hp => writeGeneral_get_other s v hp⟩⟩
  case fiqHigh =>
    rintro h8 h12 rfl
    exact ⟨_, physReg_fiq h8 h12, rfl⟩
  case r13 =>
    rintro e rfl h
    exact physReg_exc_thirteen e h
  case r14 =>
    rintro e rfl h
    exact physReg_exc_fourteen e h

end Sys2Proof.Machine
end

section
/-! One read and one write of memory: what refuses an access, the little-endian value of the bytes read, and the
statement on both (20_memory.md R72, R73). -/

namespace Sys2Proof.Machine

open Sys2Proof.Safety

/-! ## What refuses an access (20_memory.md R75, R85, R89) -/

theorem touches_eq_true {rs : List AddrRange} {a n : Nat} :
    touches rs a n = true ↔ ∃ k < n, ∃ r ∈ rs, r.holds (a + k) = true := by
  simp [touches]

theorem accessRefusal_of_misaligned {s : State} {addr : Word} {n : Nat} (h : addr.toNat % n ≠ 0) :
    accessRefusal s addr n = some .unalignedAccess := by
  simp [accessRefusal, h]

/-- Alignment is asked first, so an absent byte is named only where the address is aligned. -/
theorem accessRefusal_of_absent {s : State} {addr : Word} {n : Nat} (ha : addr.toNat % n = 0)
    (ht : touches s.platform.absent addr.toNat n = true) : accessRefusal s addr n = some .undefinedMemory := by
  simp [accessRefusal, ha, ht]

theorem memRead_of_accessRefusal {s : State} {addr : Word} {sz : Size} {user : Bool} {r : Refusal}
    (h : accessRefusal s addr sz.bytes = some r) : memRead s addr sz user = .refused r := by
  simp [memRead, h]

theorem memWrite_of_accessRefusal {s : State} {addr : Word} {sz : Size} {v : Word} {user : Bool} {r : Refusal}
    (h : accessRefusal s addr sz.bytes = some r) : memWrite s addr sz v user = .refused r := by
  simp [memWrite, h]

/-- `CODE_REGION` is asked before `MemAbort`: the refusal stands whatever the abort rules say. -/
theorem memWrite_of_inCode {s : State} {addr : Word} {sz : Size} {v : Word} {user : Bool}
    (hr : Reachable s addr sz.bytes) (hc : InCode s addr.toNat sz.bytes) :
    memWrite s addr sz v user = .refused .storeToCode := by
  simp [memWrite, accessRefusal_eq_none.mpr hr, show touches _ _ _ = true from hc]

/-! ## The value of the bytes read (20_memory.md R71, R72) -/

theorem toNat_loadBytes_lt (m : Memory) (a n : Nat) : (loadBytes m a n).toNat < 2 ^ (8 * n) := by
  refine Nat.lt_pow_two_of_testBit _ fun i hi => ?_
  rw [BitVec.testBit_toNat, getLsbD_loadBytes]
  simp [Nat.not_lt.mpr hi]

/-- The lowest address holds the lowest byte; while the bytes fit a word, none is shifted out. -/
theorem toNat_loadBytes_succ (m : Memory) (a : Nat) {n : Nat} (hn : n + 1 ≤ 4) :
    (loadBytes m a (n + 1)).toNat = (loadBytes m (a + 1) n).toNat * 2 ^ 8 + (readByte m a).toNat := by
  have low : (readByte m a).toNat < 2 ^ 8 := (readByte m a).isLt
  have high : (loadBytes m (a + 1) n).toNat * 2 ^ 8 < 2 ^ 32 := by
    calc (loadBytes m (a + 1) n).toNat * 2 ^ 8
      _ < 2 ^ (8 * n) * 2 ^ 8 := Nat.mul_lt_mul_of_pos_right (toNat_loadBytes_lt m (a + 1) n) (by decide)
      _ = 2 ^ (8 * n + 8) := (Nat.pow_add 2 _ 8).symm
      _ ≤ 2 ^ 32 := Nat.pow_le_pow_right (by decide) (by omega)
  rw [loadBytes, BitVec.toNat_or, BitVec.toNat_shiftLeft, Nat.shiftLeft_eq, Nat.mod_eq_of_lt high,
    BitVec.toNat_setWidth_of_le (by decide), ← Nat.shiftLeft_eq, ← Nat.shiftLeft_add_eq_or_of_lt low]

/-- The little-endian value of at most four bytes, as the rules write it (20_memory.md R72). -/
theorem toNat_loadBytes (m : Memory) (a : Nat) {n : Nat} (hn : n ≤ 4) :
    (loadBytes m a n).toNat = ((List.range n).map fun k => (readByte m (a + k)).toNat * 2 ^ (8 * k)).sum := by
  induction n generalizing a with
  | zero => rfl
  | succ n ih =>
    have weight (k : Nat) : (readByte m (a + 1 + k)).toNat * 2 ^ (8 * k) * 2 ^ 8 =
        (readByte m (a + (k + 1))).toNat * 2 ^ (8 * (k + 1)) := by
      rw [Nat.mul_assoc, ← Nat.pow_add, Nat.add_right_comm a 1 k, Nat.add_assoc a k 1, Nat.mul_succ]
    rw [toNat_loadBytes_succ m a hn, ih (a + 1) (by omega), ← List.sum_map_mul_right, List.range_succ_eq_map]
    simp only [weight, List.map_cons, List.map_map, List.sum_cons, Function.comp_def, Nat.succ_eq_add_one,
      Nat.add_zero, Nat.mul_zero, Nat.pow_zero, Nat.mul_one]
    exact Nat.add_comm _ _

theorem Size.bytes_le_four (sz : Size) : sz.bytes ≤ 4 := by
  cases sz <;> decide

/-- Settles O33, clause by clause: the checks in the order of R72 and R73, then the value read and the bytes stored. -/
theorem memoryReadAndWrite : Obligations.MemoryReadAndWrite := by
  intro s addr v sz user
  refine ⟨?misaligned, ?absent, ?code, ?readAborts, ?writeAborts, ?reads, ?writes⟩
  case misaligned =>
    intro h
    have refusal := accessRefusal_of_misaligned (s := s) h
    exact ⟨memRead_of_accessRefusal refusal, memWrite_of_accessRefusal refusal⟩
  case absent =>
    intro aligned h
    have refusal := accessRefusal_of_absent aligned (touches_eq_true.mpr h)
    exact ⟨memRead_of_accessRefusal refusal, memWrite_of_accessRefusal refusal⟩
  case code => exact fun reach h => memWrite_of_inCode reach (touches_eq_true.mpr h)
  case readAborts => exact fun reach h => memRead_abort.mpr ⟨reach, h⟩
  case writeAborts => exact fun reach hc h => memWrite_abort.mpr ⟨reach, hc, h⟩
  case reads => exact fun h => ⟨_, memRead_of_canRead h, toNat_loadBytes _ _ sz.bytes_le_four⟩
  case writes => exact fun h => ⟨_, memWrite_of_canWrite h, stored_storeBytes _ _ _ _⟩

end Sys2Proof.Machine
end

section
/-! Words that are no instruction: what the decoder answers for them, and the statement on the step that fetches one
(30_encoding.md R101, R126, R129). -/

namespace Sys2Proof

/-! ## What the decoder rejects (30_encoding.md R101 steps 2 and 6) -/

/-- 1111 is the one code of no condition (30_encoding.md R126). -/
theorem Cond.ofCode_eq_none {b : BitVec 4} : Cond.ofCode b = none ↔ b = 0b1111#4 := by
  revert b
  decide

/-- The condition field is looked at first, so the rows do not matter. -/
theorem decodeWord_of_condNV {w : Word} (h : fieldAt 28 4 w = 0b1111#4) : decodeWord w = .error .condNV := by
  simp [decodeWord, Cond.ofCode_eq_none.mpr h]

theorem decodeWord_of_noRow {w : Word} (hc : fieldAt 28 4 w ≠ 0b1111#4) (hr : ∀ r ∈ table, r.meets w = false) :
    decodeWord w = .error .unallocated := by
  obtain ⟨c, cond⟩ := Option.ne_none_iff_exists'.mp (mt Cond.ofCode_eq_none.mp hc)
  have noRow : table.find? (fun r => r.meets w) = none := by simpa [List.find?_eq_none] using hr
  simp [decodeWord, cond, noRow]

end Sys2Proof

namespace Sys2Proof.Machine

open Sys2Proof.Safety

/-! ## The step up to the decoder (60_exceptions.md R371) -/

theorem boundary_of_reachesFetch {s : State} (h : ReachesFetch s) :
    boundary (currentLines s.inputs) (consumeInput s) = none := by
  obtain ⟨noInterrupt, notEnd, noThumb⟩ := h
  simp [boundary, noInterrupt, notEnd, noThumb]

/-- The boundary's sample of the interrupt lines plays no part in the fetch. -/
theorem fetch_consumeInput (s : State) : fetch (consumeInput s) = fetch s := rfl

theorem fetch_of_fetches {s : State} {w : Word} (h : Fetches s w) : fetch s = .done (bytesOfWord w) := by
  obtain ⟨-, noAbort, reach, bytes⟩ := h
  simp [fetch, noAbort, accessRefusal_eq_none.mpr reach, bytes]

/-- A fetched word the decoder rejects is refused under the decoder's reason: no condition is evaluated. -/
theorem step_of_decodeWord_error {s : State} {w : Word} {e : DecodeError} (hf : Fetches s w)
    (hd : decodeWord w = .error e) : step s = .refused (decodeRefusal e) := by
  simp [step, boundary_of_reachesFetch hf.1, fetch_consumeInput, fetch_of_fetches hf, hd]

/-- Settles O5: the decoder rejects both kinds of word from their bits alone, and the step passes its reason on. -/
theorem wordsOfNoInstructionAreRefused : Obligations.WordsOfNoInstructionAreRefused := by
  intro s w fetched
  refine ⟨?condNV, ?noRow⟩
  case condNV => exact fun h => step_of_decodeWord_error fetched (decodeWord_of_condNV h)
  case noRow => exact fun hc hr => step_of_decodeWord_error fetched (decodeWord_of_noRow hc hr)

end Sys2Proof.Machine
end

section
/-! Operand 2 bit by bit, with its carry-out, and R15 in it: the statements on the forms of `<Oprnd2>`
(40_conditions_operand2.md R144 to R155). A shift by an amount field is read as the shift by a register of the amount
the field stands for, so each shift has its bits and its carry-out once. -/

namespace Sys2Proof.Machine

open Sys2Proof.Safety

/-! ## Bits of the operators (00_scope.md R10) -/

theorem msb_eq_getLsbD_31 (v : Word) : v.msb = v.getLsbD 31 :=
  BitVec.msb_eq_getLsbD_last v

theorem getLsbD_rotateRight (v : Word) {n k : Nat} (hn : n < 32) (hk : k < 32) :
    (rotateRight v n).getLsbD k = v.getLsbD ((k + n) % 32) := by
  simp only [rotateRight, BitVec.getLsbD_or, BitVec.getLsbD_ushiftRight, BitVec.getLsbD_shiftLeft]
  by_cases hw : k + n < 32
  · have fromRight : k < 32 - n := by omega
    simp [fromRight, Nat.mod_eq_of_lt hw, Nat.add_comm n k]
  · have fromLeft : ¬ k < 32 - n := by omega
    have wrapped : (k + n) % 32 = k - (32 - n) := by omega
    simp [hk, fromLeft, wrapped, BitVec.getLsbD_of_ge v (n + k) (by omega)]

/-- An arithmetic shift right reads bit 31 wherever it would read past the top. -/
theorem getLsbD_sshiftRight_eq_min (v : Word) (n : Nat) {k : Nat} (hk : k < 32) :
    (v.sshiftRight n).getLsbD k = v.getLsbD (min (k + n) 31) := by
  rw [BitVec.getLsbD_sshiftRight, msb_eq_getLsbD_31]
  by_cases hn : n + k < 32
  · simp [hn, show ¬ 32 ≤ k by omega, show min (k + n) 31 = n + k by omega]
  · simp [hn, show ¬ 32 ≤ k by omega, show min (k + n) 31 = 31 by omega]

theorem signFill_eq_sshiftRight (v : Word) {n : Nat} (hn : 32 ≤ n) : signFill v = v.sshiftRight n := by
  refine BitVec.eq_of_getLsbD_eq fun k hk => ?_
  rw [getLsbD_sshiftRight_eq_min v n hk, show min (k + n) 31 = 31 by omega, ← msb_eq_getLsbD_31, signFill]
  cases v.msb
  · simp
  · exact (BitVec.getLsbD_allOnes (v := 32) (i := k)).trans (decide_eq_true hk)

theorem rotateRight_zero (v : Word) : rotateRight v 0 = v := by
  simp [rotateRight]

/-! ## Shifts by a register (40_conditions_operand2.md R150 to R153) -/

section ByRegister

variable (n : Nat) (v : Word) (c : Bool)

/-- The branches of the model's LSL, for amounts of 32 and more too, are one shift. -/
theorem shiftByReg_lsl : shiftByReg .lsl n v c =
    (v <<< n, if n = 0 then c else decide (n ≤ 32) && v.getLsbD (32 - n)) := by
  unfold shiftByReg
  dsimp only
  split_ifs with h0 hlt h32
  · simp [h0]
  · simp [hlt.le]
  · simp [h32]
  · simp [show ¬ n ≤ 32 by omega, BitVec.shiftLeft_eq_zero (show 32 ≤ n by omega)]

theorem shiftByReg_lsr : shiftByReg .lsr n v c = (v >>> n, if n = 0 then c else v.getLsbD (n - 1)) := by
  unfold shiftByReg
  dsimp only
  split_ifs with h0 hlt h32
  · simp [h0]
  · rfl
  · rw [h32, BitVec.ushiftRight_eq_zero le_rfl, msb_eq_getLsbD_31]
  · simp [BitVec.ushiftRight_eq_zero (show 32 ≤ n by omega), BitVec.getLsbD_of_ge v (n - 1) (by omega)]

theorem shiftByReg_asr : shiftByReg .asr n v c =
    (v.sshiftRight n, if n = 0 then c else v.getLsbD (min (n - 1) 31)) := by
  unfold shiftByReg
  dsimp only
  split_ifs with h0 hlt
  · simp [h0]
  · rw [Nat.min_eq_left (by omega)]
  · rw [signFill_eq_sshiftRight v (Nat.not_lt.mp hlt), msb_eq_getLsbD_31, Nat.min_eq_right (by omega)]

theorem shiftByReg_ror : shiftByReg .ror n v c =
    (rotateRight v (n % 32), if n = 0 then c else v.getLsbD ((n + 31) % 32)) := by
  unfold shiftByReg
  dsimp only
  split_ifs with h0 hm
  · simp [h0, rotateRight_zero]
  · rw [hm, rotateRight_zero, msb_eq_getLsbD_31, show (n + 31) % 32 = 31 by omega]
  · rw [show (n + 31) % 32 = n % 32 - 1 by omega]

theorem getLsbD_shiftByReg_lsl {k : Nat} (hk : k < 32) :
    (shiftByReg .lsl n v c).1.getLsbD k = (decide (n ≤ k) && v.getLsbD (k - n)) := by
  rw [shiftByReg_lsl, BitVec.getLsbD_shiftLeft]
  by_cases hn : n ≤ k
  · simp [hk, hn, Nat.not_lt.mpr hn]
  · simp [hn, Nat.not_le.mp hn]

theorem getLsbD_shiftByReg_lsr (k : Nat) : (shiftByReg .lsr n v c).1.getLsbD k = v.getLsbD (k + n) := by
  rw [shiftByReg_lsr, BitVec.getLsbD_ushiftRight, Nat.add_comm]

theorem getLsbD_shiftByReg_asr {k : Nat} (hk : k < 32) :
    (shiftByReg .asr n v c).1.getLsbD k = v.getLsbD (min (k + n) 31) := by
  rw [shiftByReg_asr, getLsbD_sshiftRight_eq_min v n hk]

theorem getLsbD_shiftByReg_ror {k : Nat} (hk : k < 32) :
    (shiftByReg .ror n v c).1.getLsbD k = v.getLsbD ((k + n) % 32) := by
  rw [shiftByReg_ror, getLsbD_rotateRight v (Nat.mod_lt n (by decide)) hk, Nat.add_mod_mod]

end ByRegister

theorem shifterOperand_shiftReg (rm rs : Reg) (sh : Shift) (s : State) :
    shifterOperand (.shiftReg rm sh rs) s =
      shiftByReg sh ((readReg s rs).toNat % 256) (readReg s rm) s.cpsr.c := by
  simp [shifterOperand, BitVec.extractLsb'_toNat]

/-- Settles O16: bits and carry-out of each shift, for every amount. -/
theorem shifterOperandByRegister : Obligations.ShifterOperandByRegister := by
  intro s rm rs
  simp only [shifterOperand_shiftReg]
  exact ⟨fun _ => getLsbD_shiftByReg_lsl _ _ _, congrArg Prod.snd (shiftByReg_lsl _ _ _),
    fun k _ => getLsbD_shiftByReg_lsr _ _ _ k, congrArg Prod.snd (shiftByReg_lsr _ _ _),
    fun _ => getLsbD_shiftByReg_asr _ _ _, congrArg Prod.snd (shiftByReg_asr _ _ _),
    fun _ => getLsbD_shiftByReg_ror _ _ _, congrArg Prod.snd (shiftByReg_ror _ _ _)⟩

/-! ## Immediates and shifts by an amount field (40_conditions_operand2.md R144 to R149) -/

theorem getLsbD_immediate32 (rot : BitVec 4) (imm : BitVec 8) {k : Nat} (hk : k < 32) :
    (immediate32 rot imm).getLsbD k = (imm.setWidth 32).getLsbD ((k + 2 * rot.toNat) % 32) :=
  getLsbD_rotateRight _ (by have := rot.isLt; omega) hk

/-- The amount a field of LSR or ASR stands for: a field of 0 is 32 (40_conditions_operand2.md R147, R148). -/
def rightShiftAmount (amt : BitVec 5) : Nat := if amt = 0#5 then 32 else amt.toNat

theorem toNat_pos_of_ne_zero {amt : BitVec 5} (h : amt ≠ 0#5) : 0 < amt.toNat :=
  Nat.pos_of_ne_zero fun h0 => h (BitVec.eq_of_toNat_eq h0)

theorem rightShiftAmount_pos (amt : BitVec 5) : 0 < rightShiftAmount amt := by
  unfold rightShiftAmount
  split_ifs with h0
  · decide
  · exact toNat_pos_of_ne_zero h0

theorem rightShiftAmount_le (amt : BitVec 5) : rightShiftAmount amt ≤ 32 := by
  unfold rightShiftAmount
  split_ifs
  · exact le_rfl
  · exact amt.isLt.le

section ByField

variable (amt : BitVec 5) (v : Word) (c : Bool)

theorem shiftByImm_lsl : shiftByImm .lsl amt v c = shiftByReg .lsl amt.toNat v c := by
  simp [shiftByImm, shiftByReg, amt.isLt]

theorem shiftByImm_right {sh : Shift} (hs : sh = .lsr ∨ sh = .asr) :
    shiftByImm sh amt v c = shiftByReg sh (rightShiftAmount amt) v c := by
  by_cases h0 : amt = 0#5
  · subst h0
    rcases hs with rfl | rfl <;> rfl
  · have pos := toNat_pos_of_ne_zero h0
    rcases hs with rfl | rfl <;>
      simp [shiftByImm, shiftByReg, rightShiftAmount, h0, pos.ne', amt.isLt]

theorem shiftByImm_ror {amt : BitVec 5} (h0 : amt ≠ 0#5) :
    shiftByImm .ror amt v c = shiftByReg .ror amt.toNat v c := by
  have pos := toNat_pos_of_ne_zero h0
  simp [shiftByImm, shiftByReg, pos.ne', Nat.mod_eq_of_lt amt.isLt]

theorem shiftByImm_rrx : shiftByImm .ror 0#5 v c =
    (v >>> 1 ||| (BitVec.ofBool c).setWidth 32 <<< 31, v.getLsbD 0) := rfl

end ByField

theorem shifterOperand_shiftImm (rm : Reg) (sh : Shift) (amt : BitVec 5) (s : State) :
    shifterOperand (.shiftImm rm sh amt) s = shiftByImm sh amt (readReg s rm) s.cpsr.c := rfl

/-- RRX: the old C comes in at the top (40_conditions_operand2.md R149). -/
theorem getLsbD_rrx (v : Word) (c : Bool) (k : Nat) :
    (v >>> 1 ||| (BitVec.ofBool c).setWidth 32 <<< 31).getLsbD k =
      if k = 31 then c else v.getLsbD (k + 1) := by
  simp only [BitVec.getLsbD_or, BitVec.getLsbD_ushiftRight, BitVec.getLsbD_shiftLeft, BitVec.getLsbD_setWidth,
    BitVec.getLsbD_ofBool]
  split_ifs with hk
  · simp [hk]
  · by_cases hlt : k < 31
    · simp [hlt, Nat.add_comm]
    · simp [show ¬ k < 32 by omega, Nat.add_comm]

/-- The carry-out of an immediate is bit 31 of it, unless it is not rotated (40_conditions_operand2.md R144). -/
theorem shifterOperand_imm_carry (rot : BitVec 4) (imm : BitVec 8) (s : State) :
    (shifterOperand (.imm rot imm) s).2 = if rot = 0#4 then s.cpsr.c else (immediate32 rot imm).getLsbD 31 := by
  have unrotated : rot.toNat = 0 ↔ rot = 0#4 := by simp [← BitVec.toNat_inj]
  simp [shifterOperand, unrotated, msb_eq_getLsbD_31]

/-- Settles O15, form by form: every shift but RRX is the shift by a register of the amount its field stands for. -/
theorem shifterOperandImmediate : Obligations.ShifterOperandImmediate := by
  intro s
  simp only [shifterOperand_shiftImm]
  refine ⟨?imm, ?lsl, ?lsr, ?asr, ?ror, ?rrx⟩
  case imm => exact fun rot imm => ⟨fun _ => getLsbD_immediate32 rot imm, shifterOperand_imm_carry rot imm s⟩
  case lsl =>
    intro rm amt
    rw [shiftByImm_lsl]
    refine ⟨fun _ => getLsbD_shiftByReg_lsl _ _ _, ?_⟩
    simp [shiftByReg_lsl, ← BitVec.toNat_inj, amt.isLt.le]
  case lsr =>
    intro rm amt
    rw [shiftByImm_right _ _ _ (.inl rfl)]
    refine ⟨fun k _ => getLsbD_shiftByReg_lsr _ _ _ k, ?_⟩
    rw [shiftByReg_lsr]
    exact if_neg (rightShiftAmount_pos amt).ne'
  case asr =>
    intro rm amt
    rw [shiftByImm_right _ _ _ (.inr rfl)]
    refine ⟨fun _ => getLsbD_shiftByReg_asr _ _ _, ?_⟩
    rw [shiftByReg_asr, Nat.min_eq_left (Nat.sub_le_of_le_add (rightShiftAmount_le amt))]
    exact if_neg (rightShiftAmount_pos amt).ne'
  case ror =>
    intro rm amt h0
    have pos := toNat_pos_of_ne_zero h0
    have lt := amt.isLt
    rw [shiftByImm_ror _ _ h0]
    refine ⟨fun _ => getLsbD_shiftByReg_ror _ _ _, ?_⟩
    rw [shiftByReg_ror, show (amt.toNat + 31) % 32 = amt.toNat - 1 by omega]
    exact if_neg pos.ne'
  case rrx =>
    intro rm
    rw [shiftByImm_rrx]
    exact ⟨fun k hk => (getLsbD_rrx _ _ k).trans (if_neg hk.ne), getLsbD_rrx _ _ 31, rfl⟩

/-! ## R15 in operand 2 (40_conditions_operand2.md R155) -/

theorem forbidsPc_shiftReg {rm rs : Reg} {sh : Shift} {others : List Reg} :
    (Operand2.shiftReg rm sh rs).forbidsPc others = true ↔ .pc ∈ rm :: rs :: others :=
  List.contains_iff_mem

/-- The refusal comes before operand 2 is computed, so nothing else of the instruction matters. -/
theorem dataProcessing_of_forbidsPc {op : AluOp} {c : Cond} {sf : Bool} {rd rn : Option Reg} {o : Operand2} {s : State}
    (hc : Passes c s) (hf : o.forbidsPc (rd.toList ++ rn.toList) = true) :
    dataProcessing op c sf rd rn o s = .refused .r15WithRegisterShift :=
  (whenPassed_of_passes hc).trans (if_pos hf)

/-- Settles O17: each of the four positions is in the list the form looks at; the reads are the pc's own. -/
theorem r15InOperand2 : Obligations.R15InOperand2 := by
  refine ⟨?refused, fun s => ⟨rfl, rfl, rfl⟩⟩
  intro i f rm rs sh s form shifted passes named
  rw [exec_of_dpForm form]
  refine dataProcessing_of_forbidsPc passes ?_
  rw [shifted, forbidsPc_shiftReg]
  rcases named with hrd | hrn | rfl | rfl
  · simp [hrd]
  · simp [hrn]
  · simp
  · simp

end Sys2Proof.Machine
end

section
/-! Data processing into R15: the jump without `S`, the return from an exception with `S`, and the statements on both
(40_conditions_operand2.md R158, R159). -/

namespace Sys2Proof.Machine

open Sys2Proof.Safety

/-! ## The result of the skeleton (42_arithmetic.md R190 to R196) -/

theorem addWithCarry_value (a b : Word) (cin : Bool) :
    (addWithCarry a b cin).value = BitVec.ofInt 32 (a.toNat + b.toNat + cin.toNat) :=
  (BitVec.ofInt_natCast 32 (a.toNat + b.toNat + cin.toNat)).symm

/-- Adding the complement subtracts: the sum is `2 ^ 32` more than the exact difference. -/
theorem addWithCarry_not_value (a b : Word) (cin : Bool) :
    (addWithCarry a (~~~b) cin).value = BitVec.ofInt 32 (a.toNat - b.toNat - (1 - cin.toNat)) := by
  have lt := b.isLt
  have complement : ((~~~b).toNat : Int) = 2 ^ 32 - 1 - b.toNat := by
    rw [BitVec.toNat_not]; omega
  rw [addWithCarry_value, complement]
  refine BitVec.eq_of_toNat_eq ?_
  rw [BitVec.toNat_ofInt, BitVec.toNat_ofInt]
  congr 1
  omega

/-- What the model computes is the "Action" column of the rules, for each of the sixteen operations. -/
theorem alu_value (op : AluOp) (a b : Word) (sco c v : Bool) :
    (alu op a b sco c v).value = dpValue op a b c := by
  cases op with
  | and | eor | tst | teq | orr | mov | bic => rfl
  | mvn => exact BitVec.allOnes_xor
  | add | cmn => simpa [alu, dpValue, exactUnsigned] using addWithCarry_value a b false
  | adc => exact addWithCarry_value a b c
  | sub | cmp => simpa [alu, dpValue, exactUnsigned] using addWithCarry_not_value a b true
  | sbc => exact addWithCarry_not_value a b c
  | rsb => simpa [alu, dpValue, exactUnsigned] using addWithCarry_not_value b a true
  | rsc => exact addWithCarry_not_value b a c

/-- A data-processing instruction that runs and names R15 as `Rd` jumps or returns, by its `S` bit. -/
theorem exec_of_dpForm_pc {i : Instr} {f : DpForm} {s : State} (form : dpForm? i = some f) (hrd : f.rd = some .pc)
    (passes : Passes f.cond s) (allowed : f.o.forbidsPc (f.rd.toList ++ f.rn.toList) = false) :
    exec i s =
      let v := dpValue f.op (firstOperand f.rn s) (shifterOperand f.o s).1 s.cpsr.c
      if f.sf then exceptionReturn v s else branchTo v s := by
  rw [exec_of_dpForm form, dataProcessing, whenPassed_of_passes passes, if_neg (by simp [allowed]), hrd,
    finishDataProcessing, alu_value]

/-! ## The jump (40_conditions_operand2.md R158) -/

theorem wordAligned_eq_true {v : Word} : wordAligned v = true ↔ v.extractLsb' 0 2 = 0#2 :=
  beq_iff_eq

theorem branchTo_of_aligned {v : Word} (s : State) (h : v.extractLsb' 0 2 = 0#2) :
    branchTo v s = .next { s with pc := v } :=
  if_pos (wordAligned_eq_true.mpr h)

theorem branchTo_of_misaligned {v : Word} (s : State) (h : v.extractLsb' 0 2 ≠ 0#2) :
    branchTo v s = .refused .unalignedPcWrite :=
  if_neg (mt wordAligned_eq_true.mp h)

/-- Settles O22: without `S` the skeleton ends in the jump, which looks only at the low bits of the result. -/
theorem writeToR15Jumps : Obligations.WriteToR15Jumps := by
  intro i f s form hrd noS passes allowed v
  have jump : exec i s = branchTo v s := by
    rw [exec_of_dpForm_pc form hrd passes allowed, noS]; rfl
  rw [jump]
  exact ⟨branchTo_of_aligned s, branchTo_of_misaligned s⟩

/-! ## The return from an exception (40_conditions_operand2.md R159), one lemma for each of its outcomes -/

theorem hasSpsr_exc (e : ExcMode) : HasSpsr (.exc e) :=
  ⟨Mode.noConfusion, Mode.noConfusion⟩

theorem exceptionReturn_of_not_hasSpsr (v : Word) {s : State} (h : ¬ HasSpsr s.cpsr.m) :
    exceptionReturn v s = .refused .noSpsr := by
  unfold exceptionReturn
  split
  · next e hm => exact absurd (hm ▸ hasSpsr_exc e) h
  · rfl

section FromException

variable {s : State} {e : ExcMode} (hm : s.cpsr.m = .exc e) (v : Word)
include hm

theorem exceptionReturn_of_thumb (ht : (s.spsr.get e).t = true) :
    exceptionReturn v s = .refused .thumbState := by
  simp [exceptionReturn, hm, ht]

theorem exceptionReturn_of_illegalMode (ht : (s.spsr.get e).t = false) (hp : Psr.restore (s.spsr.get e) = none) :
    exceptionReturn v s = .refused .illegalMode := by
  simp [exceptionReturn, hm, ht, hp]

/-- With a status register to restore, the return is a jump from the state that has it. -/
theorem exceptionReturn_of_restore {p : Psr Mode} (ht : (s.spsr.get e).t = false)
    (hp : Psr.restore (s.spsr.get e) = some p) :
    exceptionReturn v s = branchTo v { s with cpsr := p } := by
  simp [exceptionReturn, branchTo, hm, ht, hp]

end FromException

/-- Settles O23: the refusals in the order R159 asks for them, then the restored CPSR and the jump. -/
theorem writeToR15WithSReturns : Obligations.WriteToR15WithSReturns := by
  intro i f s form hrd withS passes allowed v
  have returns : exec i s = exceptionReturn v s := by
    rw [exec_of_dpForm_pc form hrd passes allowed, withS]; rfl
  rw [returns]
  refine ⟨exceptionReturn_of_not_hasSpsr v, fun e hm => ⟨?thumb, ?illegal, ?restored⟩⟩
  case thumb => exact exceptionReturn_of_thumb hm v
  case illegal => exact fun ht hb => exceptionReturn_of_illegalMode hm v ht (Option.map_eq_none_iff.mpr hb)
  case restored =>
    intro m ht hb
    rw [exceptionReturn_of_restore hm v ht (Option.map_eq_some_iff.mpr ⟨m, hb, rfl⟩)]
    exact ⟨branchTo_of_misaligned _, branchTo_of_aligned _⟩

end Sys2Proof.Machine
end

section
/-! MSR: the status register that results, field by field, and the statement on what it writes
(41_move_psr.md R168, R169, R174 to R177). -/

namespace Sys2Proof.Machine

open Sys2Proof.Safety

/-! ## A status register as a word, and back (10_state.md R39, R45) -/

@[simp] theorem Psr.ofWord_toWord (p : Spsr) : Psr.ofWord p.toWord = p := by
  have mode : p.toWord.extractLsb' 0 5 = p.m := BitVec.extractLsb'_append_eq_right
  rw [Psr.ofWord, mode]
  simp only [Psr.toWord, BitVec.getLsbD_append]
  simp

/-! ## The bits a field mask selects -/

theorem getLsbD_mergeBits (sel old operand : Word) (k : Nat) :
    (mergeBits sel old operand).getLsbD k = if sel.getLsbD k then operand.getLsbD k else old.getLsbD k := by
  by_cases hk : k < 32
  · simp only [mergeBits, BitVec.getLsbD_or, BitVec.getLsbD_and, BitVec.getLsbD_not, hk]
    cases sel.getLsbD k <;> simp
  · simp [BitVec.getLsbD_of_ge, Nat.not_lt.mp hk]

/-- Bit `k` of a word lies in the byte `k / 8`, which has a mask bit of its own. -/
theorem getLsbD_byteMask (mask : BitVec 4) {k : Nat} (hk : k < 32) :
    (byteMask mask).getLsbD k = mask.getLsbD (k / 8) := by
  have bits : ∀ (m : BitVec 4) (j : Fin 32), (byteMask m).getLsbD j.val = m.getLsbD (j.val / 8) := by decide
  exact bits mask ⟨k, hk⟩

theorem getLsbD_cpsrMask (mask : BitVec 4) (s : State) {k : Nat} (hk : k < 32) :
    (cpsrMask mask s).getLsbD k = (mask.getLsbD (k / 8) && (!userMode s || decide (24 ≤ k))) := by
  have flagsByte : ∀ j : Fin 32, (0xFF000000#32).getLsbD j.val = decide (24 ≤ j.val) := by decide
  unfold cpsrMask
  cases userMode s
  · simp [getLsbD_byteMask mask hk]
  · simp [getLsbD_byteMask mask hk, flagsByte ⟨k, hk⟩]

/-- `sel` selects all of the flags byte or none of it, and all of the control byte or none of it. -/
def SelectsFields (sel : Word) (flags ctl : Bool) : Prop :=
  (∀ k, 24 ≤ k → k < 32 → sel.getLsbD k = flags) ∧ ∀ k < 8, sel.getLsbD k = ctl

theorem byteMask_selectsFields (mask : BitVec 4) :
    SelectsFields (byteMask mask) (mask.getLsbD 3) (mask.getLsbD 0) := by
  refine ⟨fun k lo hi => ?_, fun k hi => ?_⟩
  · rw [getLsbD_byteMask mask hi, show k / 8 = 3 by omega]
  · rw [getLsbD_byteMask mask (by omega), Nat.div_eq_of_lt hi]

/-- User mode takes the control byte away and leaves the flags byte. -/
theorem cpsrMask_selectsFields (mask : BitVec 4) (s : State) :
    SelectsFields (cpsrMask mask s) (mask.getLsbD 3) (mask.getLsbD 0 && !userMode s) := by
  refine ⟨fun k lo hi => ?_, fun k hi => ?_⟩
  · simp [getLsbD_cpsrMask mask s hi, show k / 8 = 3 by omega, lo]
  · simp [getLsbD_cpsrMask mask s (show k < 32 by omega), Nat.div_eq_of_lt hi, show ¬ 24 ≤ k by omega]

/-- `p` with its flags and its control fields taken from the word `x`, each where selected; the extension and the
status byte have no field (10_state.md R45). -/
def Psr.withFields (flags ctl : Bool) (p : Spsr) (x : Word) : Spsr :=
  { n := if flags then x.getLsbD 31 else p.n
    z := if flags then x.getLsbD 30 else p.z
    c := if flags then x.getLsbD 29 else p.c
    v := if flags then x.getLsbD 28 else p.v
    i := if ctl then x.getLsbD 7 else p.i
    f := if ctl then x.getLsbD 6 else p.f
    t := if ctl then x.getLsbD 5 else p.t
    m := if ctl then x.extractLsb' 0 5 else p.m }

theorem Psr.ofWord_mergeBits {sel : Word} {flags ctl : Bool} (h : SelectsFields sel flags ctl) (old x : Word) :
    Psr.ofWord (mergeBits sel old x) = Psr.withFields flags ctl (Psr.ofWord old) x := by
  obtain ⟨flagsByte, controlByte⟩ := h
  have mode : (mergeBits sel old x).extractLsb' 0 5 = if ctl then x.extractLsb' 0 5 else old.extractLsb' 0 5 := by
    refine BitVec.eq_of_getLsbD_eq fun k hk => ?_
    cases ctl <;> simp [getLsbD_mergeBits, controlByte k (by omega), hk]
  simp [Psr.ofWord, Psr.withFields, getLsbD_mergeBits, flagsByte, controlByte, mode, -BitVec.getLsbD_eq_getElem]

/-! ## MSR of the CPSR, one lemma for each of its outcomes -/

section Cpsr

variable {mask : BitVec 4} {x : Word} {s : State}

/-- The status register an MSR is about to put in the CPSR. -/
def msrCpsrFields (mask : BitVec 4) (x : Word) (s : State) : Spsr :=
  Psr.withFields (mask.getLsbD 3) (mask.getLsbD 0 && !userMode s) s.cpsr.save x

theorem ofWord_mergeBits_cpsr :
    Psr.ofWord (mergeBits (cpsrMask mask s) s.cpsr.save.toWord x) = msrCpsrFields mask x s := by
  rw [Psr.ofWord_mergeBits (cpsrMask_selectsFields mask s), Psr.ofWord_toWord, msrCpsrFields]

theorem writeCpsr_of_altersT (ht : (msrCpsrFields mask x s).t ≠ s.cpsr.t) :
    writeCpsr mask x s = .refused .msrAltersT := by
  simp [writeCpsr, ofWord_mergeBits_cpsr, ht]

theorem writeCpsr_of_illegalMode (ht : (msrCpsrFields mask x s).t = s.cpsr.t)
    (hp : Psr.restore (msrCpsrFields mask x s) = none) : writeCpsr mask x s = .refused .illegalMode := by
  simp [writeCpsr, ofWord_mergeBits_cpsr, ht, hp]

theorem writeCpsr_of_restore {q : Psr Mode} (ht : (msrCpsrFields mask x s).t = s.cpsr.t)
    (hp : Psr.restore (msrCpsrFields mask x s) = some q) : writeCpsr mask x s = advance { s with cpsr := q } := by
  simp [writeCpsr, ofWord_mergeBits_cpsr, ht, hp]

end Cpsr

theorem exec_msrCpsr {i : Instr} {c : Cond} {mask : BitVec 4} {x : Word} {s : State}
    (form : (∃ n, i = .msrCpsrReg c mask (.r n) ∧ x = readGeneral s n) ∨
      ∃ rot imm, i = .msrCpsrImm c mask rot imm ∧ x = immediate32 rot imm)
    (passes : Passes c s) : exec i s = writeCpsr mask x s := by
  rcases form with ⟨n, rfl, rfl⟩ | ⟨rot, imm, rfl, rfl⟩
  · exact whenPassed_of_passes passes
  · exact whenPassed_of_passes passes

/-! ## MSR of an SPSR -/

theorem writeSpsr_of_not_hasSpsr (mask : BitVec 4) (x : Word) {s : State} (h : ¬ HasSpsr s.cpsr.m) :
    writeSpsr mask x s = .refused .noSpsr := by
  unfold writeSpsr
  split
  · next e hm => exact absurd (hm ▸ hasSpsr_exc e) h
  · rfl

theorem writeSpsr_of_exc (mask : BitVec 4) (x : Word) {s : State} {e : ExcMode} (hm : s.cpsr.m = .exc e) :
    writeSpsr mask x s = advance { s with
      spsr := s.spsr.set e (Psr.withFields (mask.getLsbD 3) (mask.getLsbD 0) (s.spsr.get e) x) } := by
  simp [writeSpsr, hm, Psr.ofWord_mergeBits (byteMask_selectsFields mask)]

theorem exec_msrSpsr {i : Instr} {c : Cond} {mask : BitVec 4} {x : Word} {s : State}
    (form : (∃ n, i = .msrSpsrReg c mask (.r n) ∧ x = readGeneral s n) ∨
      ∃ rot imm, i = .msrSpsrImm c mask rot imm ∧ x = immediate32 rot imm)
    (passes : Passes c s) : exec i s = writeSpsr mask x s := by
  rcases form with ⟨n, rfl, rfl⟩ | ⟨rot, imm, rfl, rfl⟩
  · exact whenPassed_of_passes passes
  · exact whenPassed_of_passes passes

/-! ## The statement -/

/-- With the control byte left alone, T and M are the CPSR's own, so neither refusal can be met. -/
theorem msrCpsrFields_restore {mask : BitVec 4} {x : Word} {s : State} {m : Mode}
    (selected : (mask.getLsbD 0 && !userMode s) = true →
      x.getLsbD 5 = s.cpsr.t ∧ Mode.ofBits (x.extractLsb' 0 5) = some m)
    (kept : (mask.getLsbD 0 && !userMode s) = false → m = s.cpsr.m) :
    (msrCpsrFields mask x s).t = s.cpsr.t ∧ Mode.ofBits (msrCpsrFields mask x s).m = some m := by
  unfold msrCpsrFields
  cases hc : mask.getLsbD 0 && !userMode s with
  | false => exact ⟨rfl, kept hc ▸ Mode.ofBits_bits _⟩
  | true => exact selected hc

/-- Settles O25: the CPSR by the three outcomes of its write, the SPSR by whether the mode has one. -/
theorem msrWritesSelectedFields : Obligations.MsrWritesSelectedFields := by
  refine ⟨?cpsr, ?spsr⟩
  case cpsr =>
    intro i c mask x s form passes hasNext flags ctl
    rw [exec_msrCpsr form passes]
    refine ⟨?altersT, ?illegal, ?written⟩
    case altersT =>
      intro hc ht
      exact writeCpsr_of_altersT ((if_pos hc).trans_ne ht)
    case illegal =>
      intro hc ht hm
      refine writeCpsr_of_illegalMode ((if_pos hc).trans ht) (Option.map_eq_none_iff.mpr ?_)
      exact (congrArg Mode.ofBits (if_pos hc)).trans hm
    case written =>
      intro m selected kept
      obtain ⟨ht, hm⟩ := msrCpsrFields_restore selected kept
      rw [writeCpsr_of_restore ht (Option.map_eq_some_iff.mpr ⟨m, hm, rfl⟩), ht]
      exact advance_of_hasNext hasNext
  case spsr =>
    intro i c mask x s form passes hasNext
    rw [exec_msrSpsr form passes]
    refine ⟨writeSpsr_of_not_hasSpsr mask x, fun e hm => ?_⟩
    rw [writeSpsr_of_exc mask x hm]
    exact advance_of_hasNext hasNext

end Sys2Proof.Machine
end

section
/-! The shared adder: its carry and overflow, what they are for the subtract forms, and the statement on the adder and its
eight callers (42_arithmetic.md R196). -/

namespace Sys2Proof.Machine

/-! ## The carry and the overflow of the adder -/

theorem addWithCarry_c_iff {a b : Word} {cin : Bool} :
    (addWithCarry a b cin).c = true ↔ 2 ^ 32 ≤ a.toNat + b.toNat + cin.toNat :=
  decide_eq_true_iff

theorem addWithCarry_v_iff {a b : Word} {cin : Bool} :
    (addWithCarry a b cin).v = true ↔ a.toInt + b.toInt + cin.toNat ≠ (addWithCarry a b cin).value.toInt :=
  decide_eq_true_iff

/-! ## The subtract forms, which add the complement of the subtrahend -/

theorem toInt_complement (b : Word) : (~~~b).toInt = -b.toInt - 1 := by
  rw [BitVec.toInt_eq_toNat_cond, BitVec.toInt_eq_toNat_cond, BitVec.toNat_not]
  split_ifs <;> omega

theorem addWithCarry_not_value_eq_sub (a b : Word) (c : Bool) :
    (addWithCarry a (~~~b) c).value = a - b - BitVec.ofNat 32 (1 - c.toNat) := by
  have borrow : (1 - c.toNat : Int) = (1 - c.toNat : Nat) := (Nat.cast_sub c.toNat_le).symm
  rw [addWithCarry_not_value, borrow]
  simp only [Int.sub_eq_add_neg, BitVec.sub_eq_add_neg, BitVec.ofInt_add, BitVec.ofInt_neg, BitVec.ofInt_natCast,
    BitVec.ofNat_toNat, BitVec.setWidth_eq]

/-- The carry is the complement of the borrow: the sum is `2 ^ 32` more than the exact difference. -/
theorem addWithCarry_not_c_iff {a b : Word} {c : Bool} :
    (addWithCarry a (~~~b) c).c = true ↔ b.toNat + (1 - c.toNat) ≤ a.toNat := by
  have subtrahend := b.isLt
  have carryIn := c.toNat_le
  rw [addWithCarry_c_iff, BitVec.toNat_not]
  omega

theorem addWithCarry_not_v_iff {a b : Word} {c : Bool} :
    (addWithCarry a (~~~b) c).v = true ↔
      a.toInt - b.toInt - (1 - c.toNat) ≠ (addWithCarry a (~~~b) c).value.toInt := by
  have difference : a.toInt + (~~~b).toInt + c.toNat = a.toInt - b.toInt - (1 - c.toNat) := by
    rw [toInt_complement]; omega
  rw [addWithCarry_v_iff, difference]

/-- A signed difference overflows exactly when the wrapped word is not the exact difference. -/
theorem toInt_sub_ne_iff (a b : Word) :
    a.toInt - b.toInt ≠ (a - b).toInt ↔ a.ssubOverflow b = true := by
  refine ⟨fun ne => by_contra fun fits => ne (BitVec.toInt_sub_of_not_ssubOverflow fits).symm, fun overflow eq => ?_⟩
  have lower := BitVec.le_toInt (a - b)
  have upper := BitVec.toInt_lt (x := a - b)
  simp only [BitVec.ssubOverflow, Bool.or_eq_true, decide_eq_true_iff] at overflow
  omega

/-- The signs that show a signed overflow of a difference. -/
theorem ssubOverflow_iff_msb (a b : Word) :
    a.ssubOverflow b = true ↔ a.msb ≠ b.msb ∧ (a - b).msb ≠ a.msb := by
  rw [BitVec.ssubOverflow_eq]
  cases a.msb <;> cases b.msb <;> simp

/-- With carry-in 1 the subtract form is the plain difference, and its signs tell the overflow. -/
theorem addWithCarry_not_true_v_iff {a b : Word} :
    (addWithCarry a (~~~b) true).v = true ↔
      a.msb ≠ b.msb ∧ (addWithCarry a (~~~b) true).value.msb ≠ a.msb := by
  have value : (addWithCarry a (~~~b) true).value = a - b :=
    (addWithCarry_not_value_eq_sub a b true).trans (BitVec.sub_zero _)
  have noBorrow : a.toInt - b.toInt - (1 - (true.toNat : Int)) = a.toInt - b.toInt := Int.sub_zero _
  rw [addWithCarry_not_v_iff, value, noBorrow, toInt_sub_ne_iff, ssubOverflow_iff_msb]

/-! ## The statement -/

/-- Settles O18: the adder by its definition, the callers by the table of `alu`, the subtract forms by the lemmas
above. -/
theorem addWithCarryAndItsCalls : Obligations.AddWithCarryAndItsCalls := by
  refine ⟨?adder, ?callers, ?subtract⟩
  case adder => exact fun a b cin => ⟨BitVec.toNat_ofNat _ _, addWithCarry_c_iff, addWithCarry_v_iff⟩
  case callers => exact fun a b sco c v => ⟨rfl, rfl, rfl, rfl, rfl, rfl, rfl, rfl⟩
  case subtract =>
    intro a b c
    refine ⟨addWithCarry_not_value_eq_sub a b c, addWithCarry_not_c_iff, ?_⟩
    rintro rfl
    exact addWithCarry_not_true_v_iff

end Sys2Proof.Machine
end

section
/-! A data abort of a single transfer: the state the exception is taken from under each abort model, the way a load and
a store get to the abort, and the statement on it (46_load_store_single.md R273, R274, R287). -/

namespace Sys2Proof.Machine

open Sys2Proof.Safety

/-! ## What the abort leaves (46_load_store_single.md R287) -/

/-- The write-back of an operation is the write-back of its form: R15 as a base is written by neither. -/
theorem writeBack_newBase (f : TransferForm) (s : State) :
    writeBack f.ix f.rn (f.newBase s) s = { s with regs := f.regsAfter s } := by
  unfold writeBack TransferForm.regsAfter
  cases f.ix.writesBack with
  | false => rfl
  | true => cases f.rn <;> rfl

/-- The state the Data Abort exception is taken from. -/
def stateAtAbort (f : TransferForm) (s : State) : State :=
  if s.platform.abortModel = .updated then { s with regs := f.regsAfter s } else s

/-- Neither abort model moves the pc, so the link value is an address under both. -/
theorem abortTransfer_newBase (f : TransferForm) {s : State} (room : s.pc.toNat + 8 < 2 ^ 32) :
    abortTransfer f.ix f.rn (f.newBase s) s = .next (enterException .dataAbort (stateAtAbort f s)) := by
  unfold abortTransfer stateAtAbort
  rw [writeBack_newBase]
  cases s.platform.abortModel with
  | restored => exact takeException_of_room room
  | updated => exact takeException_of_room room

/-! ## The way to the abort (46_load_store_single.md R273, R274) -/

theorem transferRefusal_of_not_restricted {f : TransferForm} (free : ¬ f.Restricted)
    (pcAllowed : f.rd = .pc → f.MayNamePc) : transferRefusal (pcRuleOf f) f.ix f.rn f.rd f.off = none := by
  obtain ⟨offset, base⟩ := not_or.mp free
  refine transferRefusal_eq_none.mpr ⟨offset, fun wb => ?_, fun hrd => if_pos (pcAllowed hrd)⟩
  simpa only [wb, true_and, not_or] using base

/-- Only R15 with `PC_STORE_OFFSET` unset has no value to store (46_load_store_single.md R282). -/
theorem storeValue_eq_some {rd : Reg} {s : State} (h : rd = .pc → s.platform.pcStoreOffset ≠ none) :
    ∃ v, storeValue rd s = some v := by
  cases rd with
  | r n => exact ⟨_, rfl⟩
  | pc =>
    obtain ⟨offset, isSet⟩ := Option.ne_none_iff_exists'.mp (h rfl)
    cases offset <;> simp [storeValue, storedPc, isSet]

section Aborts

variable {i : Instr} {f : TransferForm} {s : State} (passes : Passes f.cond s) (free : ¬ f.Restricted)
  (pcAllowed : f.rd = .pc → f.MayNamePc)
include passes free pcAllowed

theorem exec_of_loadForm_abort (form : loadForm? i = some f)
    (abort : memRead s (f.address s) f.size (f.user s) = .abort) :
    exec i s = abortTransfer f.ix f.rn (f.newBase s) s := by
  unfold TransferForm.address TransferForm.user at abort
  rw [exec_of_loadForm form, loadSingle, whenPassed_of_passes passes]
  simp only [transferRefusal_of_not_restricted free pcAllowed, abort]
  rfl

theorem exec_of_storeForm_abort {v : Word} (form : storeForm? i = some f) (value : storeValue f.rd s = some v)
    (abort : memWrite s (f.address s) f.size v (f.user s) = .abort) :
    exec i s = abortTransfer f.ix f.rn (f.newBase s) s := by
  unfold TransferForm.address TransferForm.user at abort
  rw [exec_of_storeForm form, storeSingle, whenPassed_of_passes passes]
  simp only [transferRefusal_of_not_restricted free pcAllowed, value, abort]
  rfl

end Aborts

/-! ## The statement -/

/-- Settles O41: a load and a store both end in `abortTransfer`, which the abort of their access leads to. -/
theorem dataAbortOfTransfer : Obligations.DataAbortOfTransfer := by
  intro i f s passes free pcAllowed reach room
  refine ⟨?load, ?store⟩
  case load =>
    intro form aborts
    rw [exec_of_loadForm_abort passes free pcAllowed form (memRead_abort.mpr ⟨reach, aborts⟩)]
    exact abortTransfer_newBase f room
  case store =>
    intro form pcSet notCode aborts
    obtain ⟨v, value⟩ := storeValue_eq_some pcSet
    rw [exec_of_storeForm_abort passes free pcAllowed form value (memWrite_abort.mpr ⟨reach, notCode, aborts⟩)]
    exact abortTransfer_newBase f room

end Sys2Proof.Machine
end

section
/-! A data abort of a block transfer: the registers below a number and their places, the way an LDM and an STM get to
the abort, what each leaves, and the statement on it (47_load_store_multiple.md R301, R305, R306, R313). -/

namespace Sys2Proof.Machine

open Sys2Proof.Safety

/-! ## The listed registers below a number, and their places (47_load_store_multiple.md R301) -/

/-- The listed registers numbered below `k`: the part of a block transfer before R`k`. -/
def listedBelow (list : BitVec 16) (k : Nat) : List Reg :=
  (allRegs.take k).filter fun r => list.getLsbD (regNumber r)

theorem exists_regNumber_eq {k : Nat} (h : k < 16) : ∃ r, regNumber r = k := by
  by_cases lt : k < 15
  · exact ⟨.r ⟨k, lt⟩, rfl⟩
  · exact ⟨.pc, by simp only [regNumber]; omega⟩

theorem take_allRegs_succ (r : Reg) :
    allRegs.take (regNumber r + 1) = allRegs.take (regNumber r) ++ [r] := by
  cases r with
  | r n => revert n; decide
  | pc => rfl

theorem listedBelow_succ (list : BitVec 16) (r : Reg) :
    listedBelow list (regNumber r + 1) =
      listedBelow list (regNumber r) ++ if list.getLsbD (regNumber r) then [r] else [] := by
  rw [listedBelow, take_allRegs_succ, List.filter_append, List.filter_singleton, Bool.cond_eq_ite, listedBelow]

/-- A listed register stands right after the listed ones below it. -/
theorem listedRegs_split {list : BitVec 16} {r : Reg} (listed : list.getLsbD (regNumber r) = true) :
    ∃ rest, listedRegs list = listedBelow list (regNumber r) ++ r :: rest := by
  refine ⟨(allRegs.drop (regNumber r + 1)).filter fun q => list.getLsbD (regNumber q), ?_⟩
  calc listedRegs list
    _ = listedBelow list (regNumber r + 1) ++ _ := by
      rw [listedBelow, ← List.filter_append, List.take_append_drop, listedRegs]
    _ = _ := by rw [listedBelow_succ, if_pos listed, List.append_assoc, List.singleton_append]

theorem slotOf_succ (list : BitVec 16) (k : Nat) :
    slotOf list (k + 1) = slotOf list k + if list.getLsbD k then 1 else 0 := by
  rw [slotOf, List.range_succ, List.countP_append, List.countP_singleton, slotOf]

theorem slotOf_mono (list : BitVec 16) : Monotone (slotOf list) :=
  monotone_nat_of_le_succ fun k => by rw [slotOf_succ]; exact Nat.le_add_right _ _

theorem slotOf_lt_slotOf {list : BitVec 16} {j k : Nat} (lt : j < k) (listed : list.getLsbD j = true) :
    slotOf list j < slotOf list k := by
  have next := slotOf_succ list j
  have le : slotOf list (j + 1) ≤ slotOf list k := slotOf_mono list lt
  rw [if_pos listed] at next
  omega

theorem length_listedBelow (list : BitVec 16) {k : Nat} (h : k ≤ 16) :
    (listedBelow list k).length = slotOf list k := by
  induction k with
  | zero => rfl
  | succ k ih =>
    obtain ⟨r, rfl⟩ := exists_regNumber_eq h
    rw [listedBelow_succ, List.length_append, ih (by omega), slotOf_succ]
    split <;> rfl

/-- A listed register in the first place is the head of the list. -/
theorem head?_listedRegs {list : BitVec 16} {n : Fin 15} (listed : list.getLsbD n.val = true)
    (first : slotOf list n.val = 0) : (listedRegs list).head? = some (.r n) := by
  obtain ⟨rest, split⟩ := listedRegs_split (r := .r n) listed
  have nil : listedBelow list n.val = [] :=
    List.eq_nil_of_length_eq_zero ((length_listedBelow list (by omega)).trans first)
  rw [split, regNumber, nil]
  rfl

/-! ## Up to the abort: the loads and the stores below R`k` (47_load_store_multiple.md R306) -/

/-- An abort after words that can be read is the abort of the loads. -/
theorem loadList_listedBelow_abort {s : State} {a k : Nat} {list : BitVec 16} {rest : List Reg} (hk : k ≤ 16)
    (readable : ∀ j < k, list.getLsbD j = true → CanRead s (BitVec.ofNat 32 (a + 4 * slotOf list j)) 4 (userMode s))
    (abort : loadList s (a + 4 * slotOf list k) rest = .abort) :
    loadList s a (listedBelow list k ++ rest) = .abort := by
  induction k generalizing rest with
  | zero => exact abort
  | succ k ih =>
    obtain ⟨r, rfl⟩ := exists_regNumber_eq hk
    have below := fun j (hj : j < regNumber r) => readable j (Nat.lt_succ_of_lt hj)
    rw [slotOf_succ] at abort
    rw [listedBelow_succ, List.append_assoc]
    refine ih (by omega) below ?_
    by_cases listed : list.getLsbD (regNumber r) = true
    · have read := memRead_of_canRead (sz := .word) (readable _ (Nat.lt_succ_self _) listed)
      rw [if_pos listed, Nat.mul_add, ← Nat.add_assoc] at abort
      rw [if_pos listed, List.singleton_append, loadList, read]
      simp only [show loadList s (a + 4 * slotOf list (regNumber r) + 4) rest = .abort from abort]
    · rw [if_neg listed] at abort ⊢
      exact abort

/-- A word below a store is not touched by it. -/
theorem wordAt_storeBytes_below (m : Memory) {a b : Nat} (v : Word) (n : Nat) (h : b + 4 ≤ a) :
    wordAt (storeBytes m a v n) b = wordAt m b := by
  have byte (i : Nat) (hi : i < 4) : readByte (storeBytes m a v n) (b + i) = readByte m (b + i) :=
    readByte_storeBytes_outside m v (.inl (by omega))
  rw [wordAt, byte 3 (by decide), byte 2 (by decide), byte 1 (by decide)]
  exact congrArg _ (byte 0 (by decide))

/-- Memory `m'` is `m` but for the listed words below R`k`, the lowest at `a`, where R`j` left `value j`. -/
def StoredBelow (m m' : Memory) (a : Nat) (list : BitVec 16) (k : Nat) (value : Nat → Word) : Prop :=
  (∀ j < k, list.getLsbD j = true → wordAt m' (a + 4 * slotOf list j) = value j) ∧
    ∀ b, (b < a ∨ a + 4 * slotOf list k ≤ b) → readByte m' b = readByte m b

theorem StoredBelow.zero (m : Memory) (a : Nat) (list : BitVec 16) (value : Nat → Word) :
    StoredBelow m m a list 0 value :=
  ⟨fun _ hj => absurd hj (Nat.not_lt_zero _), fun _ _ => rfl⟩

theorem StoredBelow.succ_of_not_listed {m m' : Memory} {a k : Nat} {list : BitVec 16} {value : Nat → Word}
    (h : StoredBelow m m' a list k value) (listed : ¬ list.getLsbD k = true) :
    StoredBelow m m' a list (k + 1) value := by
  obtain ⟨words, outside⟩ := h
  refine ⟨fun j hj hl => words j (Nat.lt_of_le_of_ne (Nat.le_of_lt_succ hj) ?_) hl, ?_⟩
  · rintro rfl; exact listed hl
  · rwa [slotOf_succ, if_neg listed]

/-- The next word goes above all the words before it. -/
theorem StoredBelow.succ_of_listed {m m' : Memory} {a k : Nat} {list : BitVec 16} {value : Nat → Word}
    (h : StoredBelow m m' a list k value) (listed : list.getLsbD k = true) :
    StoredBelow m (storeBytes m' (a + 4 * slotOf list k) (value k) 4) a list (k + 1) value := by
  obtain ⟨words, outside⟩ := h
  refine ⟨fun j hj hl => ?_, fun b hb => ?_⟩
  · rcases Nat.lt_succ_iff_lt_or_eq.mp hj with lt | rfl
    · have place := slotOf_lt_slotOf lt hl
      rw [wordAt_storeBytes_below _ _ _ (by omega), words j lt hl]
    · exact wordAt_of_stored (stored_storeBytes _ _ _ _)
  · rw [slotOf_succ, if_pos listed] at hb
    rw [readByte_storeBytes_outside _ _ (by omega), outside b (by omega)]

/-- Only R15 with `PC_STORE_OFFSET` unset has no word to store (47_load_store_multiple.md R305). -/
theorem blockValue_eq_some {bank : BlockBank} {r : Reg} {s : State} (h : r = .pc → storedPc s ≠ none) :
    blockValue bank s r = some (blockWord bank s (regNumber r)) := by
  cases r with
  | r n => simp [blockValue, blockWord, regNumber, readBank_eq]
  | pc =>
    obtain ⟨v, hv⟩ := Option.ne_none_iff_exists'.mp (h rfl)
    simp [blockValue, blockWord, regNumber, hv]

theorem storedPc_ne_none {s : State} (h : s.platform.pcStoreOffset ≠ none) : storedPc s ≠ none := by
  obtain ⟨v, hv⟩ := storeValue_eq_some (rd := .pc) (s := s) fun _ => h
  exact Option.ne_none_iff_exists'.mpr ⟨v, hv⟩

/-- Words that can be written are stored, and the stores go on from the place of R`k`. -/
theorem storeList_listedBelow {bank : BlockBank} {s : State} {a k : Nat} {list : BitVec 16} (hk : k ≤ 16)
    (pcSet : list.getLsbD 15 = true → storedPc s ≠ none) (fits : a + 4 * slotOf list 16 ≤ 2 ^ 32)
    (writable : ∀ j < k, list.getLsbD j = true →
      CanWrite s (BitVec.ofNat 32 (a + 4 * slotOf list j)) 4 (userMode s)) :
    ∃ m', StoredBelow s.mem m' a list k (blockWord bank s) ∧ ∀ rest,
      storeList bank s s a (listedBelow list k ++ rest) =
        storeList bank s { s with mem := m' } (a + 4 * slotOf list k) rest := by
  induction k with
  | zero => exact ⟨s.mem, .zero _ _ _ _, fun _ => rfl⟩
  | succ k ih =>
    obtain ⟨r, rfl⟩ := exists_regNumber_eq hk
    obtain ⟨m', stored, goesOn⟩ := ih (by omega) fun j hj => writable j (Nat.lt_succ_of_lt hj)
    simp only [listedBelow_succ, slotOf_succ, List.append_assoc, goesOn]
    by_cases listed : list.getLsbD (regNumber r) = true
    · refine ⟨_, stored.succ_of_listed listed, fun rest => ?_⟩
      have value := blockValue_eq_some (bank := bank) (s := s) (r := r) fun hr =>
        pcSet (by rwa [hr] at listed)
      have write := memWrite_of_canWrite (s := { s with mem := m' }) (sz := .word)
        (v := blockWord bank s (regNumber r)) (writable _ (Nat.lt_succ_self _) listed)
      have place : (BitVec.ofNat 32 (a + 4 * slotOf list (regNumber r))).toNat = a + 4 * slotOf list (regNumber r) := by
        have lt := slotOf_lt_slotOf (k := 16) hk listed
        rw [BitVec.toNat_ofNat, Nat.mod_eq_of_lt (by omega)]
      rw [place] at write
      simp only [if_pos listed, List.singleton_append, storeList, value, write]
      rfl
    · exact ⟨m', stored.succ_of_not_listed listed, fun rest => by simp [listed]⟩

theorem slotAddress_eq (mode : BlockMode) (b : Word) (list : BitVec 16) (k : Nat) :
    slotAddress mode b list k = slotAddress mode b list 0 + 4 * slotOf list k := rfl

/-- The loads of an LDM whose words below R`k` can be read end in the abort of the word of R`k`. -/
theorem loadList_abort_at {mode : BlockMode} {b : Word} {list : BitVec 16} {k : Nat} {s : State} (hk : k < 16)
    (listed : list.getLsbD k = true)
    (readable : ∀ j < k, list.getLsbD j = true →
      CanRead s (BitVec.ofNat 32 (slotAddress mode b list j)) 4 (userMode s))
    (abort : memRead s (BitVec.ofNat 32 (slotAddress mode b list k)) .word (userMode s) = .abort) :
    loadList s (slotAddress mode b list 0) (listedRegs list) = .abort := by
  obtain ⟨r, rfl⟩ := exists_regNumber_eq hk
  obtain ⟨rest, split⟩ := listedRegs_split listed
  rw [split]
  refine loadList_listedBelow_abort hk.le readable ?_
  rw [loadList, ← slotAddress_eq, abort]

/-- The stores of an STM whose words below R`k` can be written end in the abort of the word of R`k`, those words
stored. -/
theorem storeList_abort_at {bank : BlockBank} {mode : BlockMode} {b : Word} {list : BitVec 16} {k : Nat} {s : State}
    (ok : BlockOk mode b list) (hk : k < 16) (listed : list.getLsbD k = true)
    (pcSet : list.getLsbD 15 = true → storedPc s ≠ none)
    (writable : ∀ j < k, list.getLsbD j = true →
      CanWrite s (BitVec.ofNat 32 (slotAddress mode b list j)) 4 (userMode s))
    (abort : ∀ m v, memWrite { s with mem := m } (BitVec.ofNat 32 (slotAddress mode b list k)) .word v (userMode s) =
      .abort) :
    ∃ m', StoredBelow s.mem m' (slotAddress mode b list 0) list k (blockWord bank s) ∧
      storeList bank s s (slotAddress mode b list 0) (listedRegs list) = .abort { s with mem := m' } := by
  obtain ⟨r, rfl⟩ := exists_regNumber_eq hk
  obtain ⟨rest, split⟩ := listedRegs_split listed
  have fits : slotAddress mode b list 0 + 4 * slotOf list 16 ≤ 2 ^ 32 := by
    obtain ⟨-, -, low, high⟩ := ok
    rw [show slotAddress mode b list 0 = (blockStart mode b.toNat (slotOf list 16)).toNat from rfl]
    omega
  obtain ⟨m', stored, goesOn⟩ := storeList_listedBelow (bank := bank) hk.le pcSet fits writable
  have value := blockValue_eq_some (bank := bank) (s := s) (r := r) fun hr => pcSet (by rwa [hr] at listed)
  refine ⟨m', stored, ?_⟩
  rw [split, goesOn, storeList, value, ← slotAddress_eq]
  simp only [abort]

/-! ## What the abort leaves (47_load_store_multiple.md R313) -/

theorem abortedBase_eq (wb : Bool) (old new : Word) (s : State) :
    abortedBase wb old new s = if s.platform.abortModel = .updated ∧ wb = true then new else old := by
  unfold abortedBase
  cases s.platform.abortModel <;> simp

theorem abortLoadBlock_eq (bank : BlockBank) (wb : Bool) (n : Fin 15) (new : Word) (regs : List Reg) {s : State}
    (room : s.pc.toNat + 8 < 2 ^ 32) :
    abortLoadBlock bank wb n new regs s = .next (enterException .dataAbort { s with
      regs := (scrambleList bank s 0 regs).regs.set (physReg s.cpsr.m n) (abortedBase wb (readGeneral s n) new s)
      draws := (scrambleList bank s 0 regs).draws }) := by
  rw [abortLoadBlock, scrambleList_eq]
  exact takeException_of_room room

/-- Writing a register's own value changes nothing. -/
theorem RegFile.set_get_self (rf : RegFile) (p : PhysReg) : rf.set p (rf.get p) = rf := by
  refine RegFile.ext_get fun q => ?_
  by_cases h : q = p
  · rw [h, RegFile.get_set_same]
  · exact RegFile.get_set_other _ _ h

theorem abortStoreBlock_eq (wb : Bool) (n : Fin 15) (new : Word) {t : State} (room : t.pc.toNat + 8 < 2 ^ 32) :
    abortStoreBlock wb n new t = .next (enterException .dataAbort { t with
      regs := if t.platform.abortModel = .updated ∧ wb = true then t.regs.set (physReg t.cpsr.m n) new
        else t.regs }) := by
  rw [abortStoreBlock, abortedBase_eq, takeException_of_room (by exact room), writeGeneral]
  split
  · rfl
  · rw [readGeneral, RegFile.set_get_self]

/-! ## The way to the abort (47_load_store_multiple.md R305) -/

/-- The restriction an operation's variant adds. -/
def specialRefusal (f : BlockForm) (s : State) : Option Refusal :=
  if f.restore then noSpsrRefusal s else
  match f.bank with
  | .current => none
  | .userBank => userBankRefusal s

theorem specialRefusal_eq_none {f : BlockForm} {s : State}
    (h : (f.restore = true ∨ f.bank = .userBank) → HasSpsr s.cpsr.m) : specialRefusal f s = none := by
  by_cases special : f.restore = true ∨ f.bank = .userBank
  · obtain ⟨notUser, notSystem⟩ := h special
    unfold specialRefusal noSpsrRefusal userBankRefusal
    cases hm : s.cpsr.m with
    | user => exact absurd hm notUser
    | system => exact absurd hm notSystem
    | exc e => cases f.bank <;> simp
  · obtain ⟨noRestore, notUserBank⟩ := not_or.mp special
    unfold specialRefusal
    cases hb : f.bank with
    | current => simp [noRestore]
    | userBank => exact absurd hb notUserBank

/-- The LDM of every variant is one operation up to its end. -/
theorem exec_of_loadBlockForm {i : Instr} {f : BlockForm} (form : blockForm? i = some f) (load : f.load = true)
    (s : State) :
    ∃ finish, exec i s = loadBlock f.cond f.mode f.wb f.rn f.list f.bank (specialRefusal f s) s finish := by
  cases i <;> cases form <;> cases load
  · exact ⟨_, Eq.refl (execLdm1 ..)⟩
  · exact ⟨_, Eq.refl (execLdm3 ..)⟩
  · exact ⟨_, Eq.refl (execLdm2 ..)⟩

/-- The STM of both variants is one operation up to its end. -/
theorem exec_of_storeBlockForm {i : Instr} {f : BlockForm} (form : blockForm? i = some f) (store : f.load = false)
    (s : State) :
    ∃ finish, exec i s = storeBlock f.cond f.mode f.wb f.rn f.list f.bank (specialRefusal f s) s finish := by
  cases i <;> cases form <;> cases store
  · exact ⟨_, Eq.refl (execStm1 ..)⟩
  · exact ⟨_, Eq.refl (execStm2 ..)⟩

theorem blockRefusal_of_blockOk {mode : BlockMode} {n : Fin 15} {list : BitVec 16} {s : State}
    (ok : BlockOk mode (readGeneral s n) list) : blockRefusal (.r n) list s = none := by
  obtain ⟨notEmpty, aligned, -, -⟩ := ok
  exact blockRefusal_eq_none.mpr ⟨notEmpty, Reg.noConfusion, wordAligned_iff.mpr aligned⟩

theorem blockWraps_of_blockOk {mode : BlockMode} {b : Word} {list : BitVec 16} (ok : BlockOk mode b list) :
    blockWraps (blockStart mode b.toNat (slotOf list 16)) (slotOf list 16) = false := by
  obtain ⟨-, -, low, high⟩ := ok
  simp only [blockWraps, Bool.or_eq_false_iff, decide_eq_false_iff_not]
  omega

section Aborts

variable {c : Cond} {mode : BlockMode} {wb : Bool} {n : Fin 15} {list : BitVec 16} {bank : BlockBank} {s : State}
  (passes : Passes c s) (ok : BlockOk mode (readGeneral s n) list)
include passes ok

theorem loadBlock_of_abort {finish : List (Reg × Word) → State → Result}
    (baseNotListed : wb = true → list.getLsbD n.val = false)
    (abort : loadList s (slotAddress mode (readGeneral s n) list 0) (listedRegs list) = .abort) :
    loadBlock c mode wb (.r n) list bank none s finish =
      abortLoadBlock bank wb n (blockBase mode (readGeneral s n) list) (listedRegs list) s := by
  have noOverlap : ¬ (wb && (listedRegs list).contains (.r n)) = true := by
    simpa [mem_listedRegs_r] using baseNotListed
  unfold loadBlock
  rw [whenPassed_of_passes passes]
  simp only [blockRefusal_of_blockOk ok, if_neg noOverlap, length_listedRegs, blockWraps_of_blockOk ok]
  rw [show loadList s (blockStart mode _ _).toNat (listedRegs list) = .abort from abort]
  rfl

theorem storeBlock_of_abort {finish : State → Result} {t : State}
    (baseFirst : wb = true → list.getLsbD n.val = true → slotOf list n.val = 0)
    (pcSet : list.getLsbD 15 = true → storedPc s ≠ none)
    (abort : storeList bank s s (slotAddress mode (readGeneral s n) list 0) (listedRegs list) = .abort t) :
    storeBlock c mode wb (.r n) list bank none s finish =
      abortStoreBlock wb n (blockBase mode (readGeneral s n) list) t := by
  have noOverlap : ¬ (wb && (listedRegs list).contains (.r n) && (listedRegs list).head? != some (.r n)) = true := by
    simp only [Bool.and_eq_true, List.contains_iff_mem, mem_listedRegs_r, and_imp, bne_iff_ne, not_and, not_not]
    exact fun hwb listed => head?_listedRegs listed (baseFirst hwb listed)
  have pcStored : ¬ (listsPc list && (storedPc s).isNone) = true := by
    simpa [listsPc] using pcSet
  unfold storeBlock
  rw [whenPassed_of_passes passes]
  simp only [blockRefusal_of_blockOk ok, if_neg noOverlap, if_neg pcStored, length_listedRegs, blockWraps_of_blockOk ok]
  rw [show storeList bank s s (blockStart mode _ _).toNat (listedRegs list) = .abort t from abort]
  rfl

end Aborts

/-! ## The statement -/

/-- Settles O49: the words below R`k` are read or written, the word of R`k` aborts, and the abort leaves what
`abortLoadBlock` and `abortStoreBlock` leave. -/
theorem dataAbortInBlock : Obligations.DataAbortInBlock := by
  intro i f n k s b addr baseMoves form base passes ok hasSpsr hk listed reach room
  have special := specialRefusal_eq_none hasSpsr
  refine ⟨?load, ?store⟩
  case load =>
    intro load baseNotListed readable aborts
    obtain ⟨finish, run⟩ := exec_of_loadBlockForm form load s
    have abort := loadList_abort_at hk listed readable (memRead_abort.mpr ⟨reach, aborts⟩)
    rw [base, special, loadBlock_of_abort passes ok baseNotListed abort, abortLoadBlock_eq _ _ _ _ _ room] at run
    refine ⟨_, _, run, ?_, fun p notBase notListed => ?_⟩
    · rw [RegFile.get_set_same, abortedBase_eq]
    · rw [RegFile.get_set_other _ _ notBase]
      exact scrambleList_get_other fun j hj => (notListed j (mem_listedRegs_r.mp hj)).symm
  case store =>
    intro store baseFirst pcSet writable notCode aborts
    obtain ⟨finish, run⟩ := exec_of_storeBlockForm form store s
    have pcStored := fun h => storedPc_ne_none (pcSet h)
    obtain ⟨m', ⟨words, outside⟩, abort⟩ := storeList_abort_at (bank := f.bank) ok hk listed pcStored writable
      fun _ _ => memWrite_abort.mpr ⟨reach, notCode, aborts⟩
    rw [base, special, storeBlock_of_abort passes ok baseFirst pcStored abort,
      abortStoreBlock_eq _ _ _ (by exact room)] at run
    exact ⟨m', run, words, outside⟩

end Sys2Proof.Machine
end

section
/-! Entry to the exceptions: what it writes and when it is refused, the boundary that takes an interrupt, and the
statements on each exception's entry and on the return that undoes it (60_exceptions.md R360 to R374). -/

namespace Sys2Proof.Machine

open Sys2Proof.Safety

/-! ## Entry (60_exceptions.md R351, R360) -/

theorem vectorBase_add (v : Word) : Config.vectorBase + v = v :=
  BitVec.zero_add v

/-- FIQ alone disables FIQ. -/
theorem Exc.masksFiq_eq (e : Exc) : e.masksFiq = decide (e = .fiq) := by
  cases e <;> rfl

theorem takeException_of_no_room {e : Exc} {s : State} (h : 2 ^ 32 ≤ s.pc.toNat + e.link) :
    takeException e s = .refused .pcWrap :=
  if_neg (Nat.not_lt.mpr h)

/-- The exceptions other than FIQ leave the F bit alone. -/
theorem takeException_of_ne_fiq {e : Exc} {s : State} (he : e ≠ .fiq) (room : s.pc.toNat + e.link < 2 ^ 32) :
    takeException e s = .next { s with
      regs := s.regs.set (.r14 e.mode) (s.pc + BitVec.ofNat 32 e.link)
      spsr := s.spsr.set e.mode s.cpsr.save
      cpsr := { s.cpsr with i := true, t := false, m := .exc e.mode }
      pc := e.vector
      afterUserTransfer := false } := by
  rw [takeException_of_room room, enterException, vectorBase_add, Exc.masksFiq_eq, decide_eq_false he, Bool.or_false]

/-- FIQ disables both interrupts. -/
theorem takeException_fiq {s : State} (room : HasNext s) :
    takeException .fiq s = .next { s with
      regs := s.regs.set (.r14 .fiq) (s.pc + 4#32)
      spsr := s.spsr.set .fiq s.cpsr.save
      cpsr := { s.cpsr with i := true, f := true, t := false, m := .exc .fiq }
      pc := 0x0000001C#32
      afterUserTransfer := false } := by
  rw [takeException_of_room room, enterException, vectorBase_add, Exc.masksFiq, Bool.or_true]
  rfl

/-- Settles O53: the table's columns are the model's own, and entry writes one R14, one SPSR, the CPSR and the pc. -/
theorem exceptionEntry : Obligations.ExceptionEntry := by
  refine ⟨fun e s => ?_, fun _ => ⟨rfl, rfl⟩⟩
  intro m vector link
  obtain ⟨hm, hv, hl⟩ : m = e.mode ∧ vector = e.vector ∧ link = e.link := by
    cases e <;> exact ⟨rfl, rfl, rfl⟩
  clear_value m vector link
  subst hm hv hl
  refine ⟨fun room => ⟨_, takeException_of_room room, ?link, ?registers, ?saved, ?otherSpsrs, ?cpsr, ?pc, rfl⟩,
    takeException_of_no_room⟩
  case link =>
    have small : e.link < 2 ^ 32 := by omega
    rw [enterException_regs, RegFile.get_set_same, BitVec.toNat_add, BitVec.toNat_ofNat, Nat.mod_eq_of_lt small,
      Nat.mod_eq_of_lt room]
  case registers => exact fun p hp => RegFile.get_set_other _ _ hp
  case saved => exact Banked.get_set_same _ _ _
  case otherSpsrs => exact fun m' hm' => Banked.get_set_other _ _ hm'
  case cpsr => rw [enterException_cpsr, Exc.masksFiq_eq]
  case pc => exact vectorBase_add _

/-! ## The instructions that trap (49_swi.md R340; 60_exceptions.md R362, R363) -/

theorem exec_swi (c : Cond) (imm : BitVec 24) (s : State) :
    exec (.swi c imm) s = whenPassed c s (takeException .softwareInterrupt s) := rfl

/-- A word of the undefined space or of either coprocessor space does the same. -/
theorem exec_of_undefined {c : Cond} {hi : BitVec 20} {lo : BitVec 4} {x : BitVec 25} {y : BitVec 24} {i : Instr}
    (h : i ∈ [Instr.undefinedSpace c hi lo, .coprocTransfer c x, .coprocOperation c y]) (s : State) :
    exec i s = whenPassed c s (takeException .undefined s) := by
  simp only [List.mem_cons, List.not_mem_nil, or_false] at h
  rcases h with rfl | rfl | rfl <;> rfl

/-- Settles O52: what passes the condition is the exception's entry and nothing else. -/
theorem trapsTakeTheirException : Obligations.TrapsTakeTheirException := by
  intro c s passes hasNext
  refine ⟨fun imm => ?swi, fun hi lo x y i hi => ?undefined⟩
  case swi =>
    rw [exec_swi, whenPassed_of_passes passes]
    exact takeException_of_ne_fiq (by decide) hasNext
  case undefined =>
    rw [exec_of_undefined hi, whenPassed_of_passes passes]
    exact takeException_of_ne_fiq (by decide) hasNext

/-! ## The boundary and the fetch (60_exceptions.md R366 to R371) -/

theorem pendingInterrupt_fiq {l : LineSample} {p : Psr Mode} (line : l.fiq = true) (unmasked : p.f = false) :
    pendingInterrupt l p = some .fiq := by
  simp [pendingInterrupt, line, unmasked]

/-- IRQ comes second: it is taken only where FIQ is not. -/
theorem pendingInterrupt_irq {l : LineSample} {p : Psr Mode} (noFiq : l.fiq = false ∨ p.f = true)
    (line : l.irq = true) (unmasked : p.i = false) : pendingInterrupt l p = some .irq := by
  rcases noFiq with h | h <;> simp [pendingInterrupt, h, line, unmasked]

theorem pendingInterrupt_none {l : LineSample} {p : Psr Mode} (noFiq : l.fiq = false ∨ p.f = true)
    (noIrq : l.irq = false ∨ p.i = true) : pendingInterrupt l p = none := by
  rcases noFiq with hf | hf <;> rcases noIrq with hi | hi <;> simp [pendingInterrupt, hf, hi]

theorem step_of_pendingInterrupt {s : State} {e : Exc}
    (h : pendingInterrupt (currentLines s.inputs) s.cpsr = some e) : step s = takeException e (consumeInput s) := by
  simp [step, boundary, h]

/-- Of the sample of the lines, a step sees only the interrupt it gives. -/
theorem step_congr_pendingInterrupt {s : State} {l l' : LineSample} {rest : List LineSample}
    (inputs : s.inputs = l :: rest) (same : pendingInterrupt l s.cpsr = pendingInterrupt l' s.cpsr) :
    step s = step { s with inputs := l' :: rest } := by
  have boundaries : boundary (currentLines s.inputs) (consumeInput s) =
      boundary (currentLines (l' :: rest)) (consumeInput s) := by
    rw [boundary, boundary, inputs, consumeInput_cpsr]
    simp only [currentLines, same]
  have consumed : consumeInput { s with inputs := l' :: rest } = consumeInput s := by
    simp [consumeInput, inputs]
  simp only [step, boundaries, consumed]

theorem step_of_fetch_aborts {s : State} (reaches : ReachesFetch s)
    (aborts : memAborts s.platform s.pc.toNat 4 .fetch (userMode s) = true) :
    step s = takeException .prefetchAbort (consumeInput s) := by
  have abort : fetch s = .abort := if_pos aborts
  simp [step, boundary_of_reachesFetch reaches, fetch_consumeInput, abort]

/-- FIQ mode's R8 to R14 are its own (10_state.md R32). -/
theorem physReg_fiq_ne_user {n : Fin 15} (h : 8 ≤ n.val) (k : Fin 15) : physReg (.exc .fiq) n ≠ .user k := by
  obtain h12 | h13 | h14 : n.val ≤ 12 ∨ n.val = 13 ∨ n.val = 14 := by omega
  · rw [physReg_fiq h h12]; exact PhysReg.noConfusion
  · rw [physReg_exc_thirteen _ h13]; exact PhysReg.noConfusion
  · rw [physReg_exc_fourteen _ h14]; exact PhysReg.noConfusion

/-- Settles O9: the boundary's three outcomes, by what the sample and the masks leave pending. -/
theorem interruptEntry : Obligations.InterruptEntry := by
  refine ⟨fun s l rest inputs hasNext => ?_, fun n k h => physReg_fiq_ne_user h k⟩
  obtain rfl : rest = s.inputs.tail := by rw [inputs]; rfl
  refine ⟨?fiq, ?irq, ?none⟩
  case fiq =>
    intro line unmasked
    have pending : pendingInterrupt (currentLines s.inputs) s.cpsr = some .fiq := by
      rw [inputs]; exact pendingInterrupt_fiq line unmasked
    rw [step_of_pendingInterrupt pending]
    exact takeException_fiq hasNext
  case irq =>
    intro noFiq line unmasked
    have pending : pendingInterrupt (currentLines s.inputs) s.cpsr = some .irq := by
      rw [inputs]; exact pendingInterrupt_irq noFiq line unmasked
    rw [step_of_pendingInterrupt pending]
    exact takeException_of_ne_fiq (by decide) hasNext
  case none =>
    intro noFiq noIrq
    exact step_congr_pendingInterrupt inputs
      ((pendingInterrupt_none noFiq noIrq).trans (pendingInterrupt_none (.inl rfl) (.inl rfl)).symm)

/-- Settles O10: the fetch asks for the abort before anything of the word, and entry does the rest. -/
theorem prefetchAbortEntry : Obligations.PrefetchAbortEntry := by
  intro s reaches aborts hasNext
  rw [step_of_fetch_aborts reaches aborts]
  exact takeException_of_ne_fiq (by decide) hasNext

/-! ## The return (60_exceptions.md R374) -/

/-- Every exception's mode has its link in its own R14. -/
theorem readReg_fourteen_enterException (e : Exc) (s : State) :
    readReg (enterException e s) (.r 14) = s.pc + BitVec.ofNat 32 e.link := by
  simp [readReg, readGeneral, physReg_exc_fourteen]

/-- Right after entry, the saved status register is the CPSR before: a data-processing instruction into R15 with `S`
restores it and jumps to its result. -/
theorem exec_return_enterException {ret : Instr} {f : DpForm} {e : Exc} {s : State} {v : Word}
    (form : dpForm? ret = some f) (hrd : f.rd = some .pc) (withS : f.sf = true) (always : f.cond = .al)
    (allowed : f.o.forbidsPc (f.rd.toList ++ f.rn.toList) = false)
    (value : dpValue f.op (firstOperand f.rn (enterException e s)) (shifterOperand f.o (enterException e s)).1
      (enterException e s).cpsr.c = v)
    (noThumb : s.cpsr.t = false) (aligned : wordAligned v = true) :
    exec ret (enterException e s) = .next { enterException e s with cpsr := s.cpsr, pc := v } := by
  have passes : Passes f.cond (enterException e s) := by rw [always]; rfl
  have saved : (enterException e s).spsr.get e.mode = s.cpsr.save := Banked.get_set_same _ _ _
  have returns : exec ret (enterException e s) = exceptionReturn v (enterException e s) := by
    rw [exec_of_dpForm_pc form hrd passes allowed, withS, value]; rfl
  rw [returns, exceptionReturn_of_restore (e := e.mode) (p := s.cpsr) rfl v (by rw [saved]; exact noThumb)
    (by rw [saved]; exact Psr.restore_save _)]
  exact branchTo_of_aligned _ (wordAligned_eq_true.mp aligned)

/-- `MOVS PC, R14` resumes at the link. -/
theorem exec_movs_enterException {e : Exc} {s : State} (noThumb : s.cpsr.t = false)
    (aligned : wordAligned (s.pc + BitVec.ofNat 32 e.link) = true) :
    exec (.movShiftImm .al true .pc (.r 14) .lsl 0#5) (enterException e s) =
      .next { enterException e s with cpsr := s.cpsr, pc := s.pc + BitVec.ofNat 32 e.link } :=
  exec_return_enterException rfl rfl rfl rfl rfl (readReg_fourteen_enterException e s) noThumb aligned

theorem dpValue_sub (a b : Word) (c : Bool) : dpValue .sub a b c = a - b := by
  rw [← alu_value .sub a b c c c]
  exact (addWithCarry_not_value_eq_sub a b true).trans (BitVec.sub_zero _)

theorem immediate32_zero (imm : BitVec 8) : immediate32 0#4 imm = imm.setWidth 32 :=
  rotateRight_zero _

/-- `SUBS PC, R14, #imm` resumes at the link less the constant. -/
theorem exec_subs_enterException {e : Exc} {s : State} {v : Word} (imm : BitVec 8) (noThumb : s.cpsr.t = false)
    (resume : s.pc + BitVec.ofNat 32 e.link - imm.setWidth 32 = v) (aligned : wordAligned v = true) :
    exec (.subImm .al true .pc (.r 14) 0#4 imm) (enterException e s) =
      .next { enterException e s with cpsr := s.cpsr, pc := v } := by
  refine exec_return_enterException rfl rfl rfl rfl rfl ?_ noThumb aligned
  rw [dpValue_sub, firstOperand, readReg_fourteen_enterException, shifterOperand, immediate32_zero, resume]

theorem wordAligned_add_four {v : Word} (h : wordAligned v = true) : wordAligned (v + 4#32) = true := by
  rw [wordAligned_iff] at h ⊢
  rw [BitVec.toNat_add, BitVec.toNat_ofNat]
  omega

/-- Settles O54: the words by the decoder, then each row of the table as `MOVS` or `SUBS` with its own link and
constant. -/
theorem returnResumesAfterException : Obligations.ReturnResumesAfterException := by
  refine ⟨by decide, by decide, by decide, fun s aligned noThumb _ => ?_⟩
  have aligned4 := wordAligned_add_four aligned
  have link4 : s.pc + 4#32 - 4#32 = s.pc := BitVec.add_sub_cancel _ _
  have link8 : s.pc + 8#32 - 8#32 = s.pc := BitVec.add_sub_cancel _ _
  have link8less4 : s.pc + 8#32 - 4#32 = s.pc + 4#32 := by bv_omega
  exact ⟨exec_movs_enterException noThumb aligned4, exec_movs_enterException noThumb aligned4,
    exec_subs_enterException 4#8 noThumb link4 aligned, exec_subs_enterException 8#8 noThumb link8 aligned,
    exec_subs_enterException 4#8 noThumb link8less4 aligned4, exec_subs_enterException 4#8 noThumb link4 aligned,
    exec_subs_enterException 4#8 noThumb link4 aligned⟩

end Sys2Proof.Machine
end

section
/-! The hazard bit after LDM (2) and STM (2): what a step can do up to the instruction it runs, that no other
instruction sets the bit, and the statement on the hazard (70_reset_and_hazards.md R415). -/

namespace Sys2Proof

/-! ## Four bytes as a word (20_memory.md R71) -/

theorem bytesOfWord_wordOfBytes (b0 b1 b2 b3 : Byte) : bytesOfWord (wordOfBytes b0 b1 b2 b3) = [b0, b1, b2, b3] := by
  simp only [bytesOfWord, wordOfBytes, List.cons.injEq, and_true]
  refine ⟨?_, ?_, ?_, ?_⟩
  · exact BitVec.extractLsb'_append_eq_right
  · rw [BitVec.extractLsb'_append_eq_of_le (by decide)]
    exact BitVec.extractLsb'_append_eq_right
  · rw [BitVec.extractLsb'_append_eq_of_le (by decide), BitVec.extractLsb'_append_eq_of_le (by decide)]
    exact BitVec.extractLsb'_append_eq_right
  · rw [BitVec.extractLsb'_append_eq_of_le (by decide), BitVec.extractLsb'_append_eq_of_le (by decide)]
    exact BitVec.extractLsb'_append_eq_left

end Sys2Proof

namespace Sys2Proof.Machine

open Sys2Proof.Safety

/-! ## What a step can do (60_exceptions.md R371) -/

theorem boundary_eq_none {s : State} (h : boundary (currentLines s.inputs) (consumeInput s) = none) :
    ReachesFetch s := by
  unfold boundary at h
  split at h
  · cases h
  · next noInterrupt =>
    split at h
    · cases h
    · next notEnd =>
      split at h
      · cases h
      · next noThumb => exact ⟨noInterrupt, notEnd, by simpa using noThumb⟩

/-- Before the fetch, only an interrupt gives a next state. -/
theorem boundary_next {l : LineSample} {s t : State} (h : boundary l s = some (.next t)) :
    ∃ e, t = enterException e s := by
  unfold boundary at h
  split at h
  · next e _ => exact ⟨e, (takeException_next (Option.some.inj h)).2⟩
  · split at h
    · cases h
    · split at h <;> cases h

theorem fetch_done {s : State} {bytes : List Byte} (reaches : ReachesFetch s) (h : fetch s = .done bytes) :
    ∃ w, bytes = bytesOfWord w ∧ Fetches s w := by
  unfold fetch at h
  split at h
  · cases h
  · next noAbort =>
    split at h
    · cases h
    · next reach =>
      have word := (bytesOfWord_wordOfBytes (readByte s.mem s.pc.toNat) (readByte s.mem (s.pc.toNat + 1))
        (readByte s.mem (s.pc.toNat + 2)) (readByte s.mem (s.pc.toNat + 3))).symm
      cases h
      exact ⟨_, word, reaches, by simpa using noAbort, accessRefusal_eq_none.mp reach, word⟩

/-- A step enters an exception, or runs the instruction fetched. -/
theorem step_next {s t : State} (h : step s = .next t) :
    (∃ e, t = enterException e (consumeInput s)) ∨
    ∃ w i, Fetches s w ∧ decodeWord w = .ok i ∧ hazardRefuses i s = false ∧
      exec i (clearHazard (consumeInput s)) = .next t := by
  unfold step at h
  dsimp only at h
  split at h
  · next r interrupt => exact .inl (boundary_next (h ▸ interrupt))
  · next passed =>
    split at h
    · exact .inl ⟨_, (takeException_next h).2⟩
    · cases h
    · next bytes fetched =>
      obtain ⟨w, rfl, fetches⟩ := fetch_done (boundary_eq_none passed) fetched
      rw [decode_bytesOfWord] at h
      split at h
      · cases h
      · next i decoded =>
        split at h
        · cases h
        · next free => exact .inr ⟨w, i, fetches, decoded, Bool.eq_false_iff.mpr free, h⟩

/-- A fetched instruction is refused by the hazard before its condition is looked at; else it runs with the bit
cleared. -/
theorem step_of_decodeWord_ok {s : State} {w : Word} {i : Instr} (hf : Fetches s w) (hd : decodeWord w = .ok i) :
    step s = if hazardRefuses i s then .refused .bankedAccessAfterUserTransfer
      else exec i (clearHazard (consumeInput s)) := by
  simp [step, boundary_of_reachesFetch hf.1, fetch_consumeInput, fetch_of_fetches hf, hd, hazardRefuses]

theorem namesBanked_of_mem {m : Mode} {i : Instr} {n : Fin 15} (named : Reg.r n ∈ namedRegs i)
    (banked : ∀ k, physReg m n ≠ .user k) : namesBanked m i = true :=
  List.any_eq_true.mpr ⟨.r n, named, bne_iff_ne.mpr (banked n)⟩

/-! ## Outcomes that leave the hazard bit clear -/

/-- The next state, if there is one, has the hazard bit clear. -/
def LeavesClear (r : Result) : Prop := ∀ t, r = .next t → t.afterUserTransfer = false

theorem leavesClear_next {s : State} (clear : s.afterUserTransfer = false) : LeavesClear (.next s) := by
  rintro t ⟨⟩
  exact clear

theorem leavesClear_refused (r : Refusal) : LeavesClear (.refused r) := by
  rintro t ⟨⟩

theorem takeException_leavesClear (e : Exc) (s : State) : LeavesClear (takeException e s) := by
  intro t h
  obtain ⟨-, rfl⟩ := takeException_next h
  rfl

@[simp] theorem writeBack_afterUserTransfer (ix : Indexing) (rn : Reg) (v : Word) (s : State) :
    (writeBack ix rn v s).afterUserTransfer = s.afterUserTransfer := by
  obtain same | ⟨n, -, -, written⟩ := writeBack_cases ix rn v s
  · rw [same]
  · rw [written, writeGeneral_afterUserTransfer]

theorem abortTransfer_leavesClear (ix : Indexing) (rn : Reg) (newBase : Word) (s : State) :
    LeavesClear (abortTransfer ix rn newBase s) := by
  intro t h
  obtain rfl | rfl := abortTransfer_next h <;> rfl

section FromClear

/-! From a state with the bit clear, each shared operation leaves it clear. -/

variable {s : State} (clear : s.afterUserTransfer = false)

include clear

theorem advance_leavesClear : LeavesClear (advance s) := by
  intro t h
  obtain ⟨-, rfl⟩ := advance_next h
  exact clear

theorem branchTo_leavesClear (v : Word) : LeavesClear (branchTo v s) := by
  intro t h
  obtain ⟨-, rfl⟩ := branchTo_next h
  exact clear

theorem exceptionReturn_leavesClear (v : Word) : LeavesClear (exceptionReturn v s) := by
  intro t h
  obtain ⟨_, _, -, -, -, -, rfl⟩ := exceptionReturn_next h
  exact clear

/-- A failed condition only advances the pc, so the instruction matters only where it passes. -/
theorem whenPassed_leavesClear {c : Cond} {body : Result} (h : Passes c s → LeavesClear body) :
    LeavesClear (whenPassed c s body) := by
  by_cases passes : Passes c s
  · rw [whenPassed_of_passes passes]
    exact h passes
  · rw [whenPassed_of_not_passes passes]
    exact advance_leavesClear clear

theorem dataProcessing_leavesClear (op : AluOp) (c : Cond) (sf : Bool) (rd rn : Option Reg) (o : Operand2) :
    LeavesClear (dataProcessing op c sf rd rn o s) := by
  intro t h
  obtain ⟨-, -, rfl⟩ | ⟨-, -, finish⟩ := dataProcessing_next h
  · exact clear
  obtain ⟨-, -, rfl⟩ | ⟨n, -, -, rfl⟩ | ⟨-, -, -, rfl⟩ | ⟨-, -, returns⟩ := finishDataProcessing_next finish
  · exact clear
  · cases sf <;> exact clear
  · exact clear
  · exact exceptionReturn_leavesClear clear _ t returns

theorem writeCpsr_leavesClear (mask : BitVec 4) (x : Word) : LeavesClear (writeCpsr mask x s) := by
  unfold writeCpsr
  dsimp only
  split
  · exact leavesClear_refused _
  · split
    · exact leavesClear_refused _
    · exact advance_leavesClear clear

theorem writeSpsr_leavesClear (mask : BitVec 4) (x : Word) : LeavesClear (writeSpsr mask x s) := by
  unfold writeSpsr
  split
  · exact advance_leavesClear clear
  · exact leavesClear_refused _

theorem finishMul_leavesClear (sf : Bool) (d : Fin 15) (result : Word) : LeavesClear (finishMul sf d result s) := by
  refine advance_leavesClear ?_
  cases sf <;> exact clear

theorem finishMulLong_leavesClear (sf : Bool) (dLo dHi : Fin 15) (result : BitVec 64) :
    LeavesClear (finishMulLong sf dLo dHi result s) := by
  refine advance_leavesClear ?_
  cases sf <;> exact clear

theorem mulLong_leavesClear (c : Cond) (rdLo rdHi rm rs : Reg) {body : Fin 15 → Fin 15 → Word → Word → Result}
    (hb : ∀ dLo dHi a b, LeavesClear (body dLo dHi a b)) : LeavesClear (mulLong c rdLo rdHi rm rs s body) := by
  refine whenPassed_leavesClear clear fun _ => ?_
  split
  · split
    · exact leavesClear_refused _
    · exact hb _ _ _ _
  · exact leavesClear_refused _

theorem loadSingle_leavesClear (c : Cond) (sz : Size) (signed forceUser : Bool) (pcRule : Option Refusal)
    (ix : Indexing) (up : Bool) (rd rn : Reg) (o : Offset) :
    LeavesClear (loadSingle c sz signed forceUser pcRule ix up rd rn o s) := by
  intro t h
  obtain ⟨-, -, rfl⟩ | ⟨-, -, ⟨-, abort⟩ | ⟨data, -, finish⟩⟩ := loadSingle_next h
  · exact clear
  · exact abortTransfer_leavesClear _ _ _ _ t abort
  · obtain ⟨n, -, -, rfl⟩ | ⟨-, -, rfl⟩ := finishLoad_next finish <;> simpa using clear

theorem storeSingle_leavesClear (c : Cond) (sz : Size) (forceUser : Bool) (pcRule : Option Refusal)
    (ix : Indexing) (up : Bool) (rd rn : Reg) (o : Offset) :
    LeavesClear (storeSingle c sz forceUser pcRule ix up rd rn o s) := by
  intro t h
  obtain ⟨-, -, rfl⟩ | ⟨-, -, v, -, ⟨-, abort⟩ | ⟨u, stored, finish⟩⟩ := storeSingle_next h
  · exact clear
  · exact abortTransfer_leavesClear _ _ _ _ t abort
  · obtain ⟨-, rfl⟩ := memWrite_done stored
    exact advance_leavesClear (by simpa using clear) t finish

theorem swapMemory_leavesClear (c : Cond) (sz : Size) (rd rm rn : Reg) :
    LeavesClear (swapMemory c sz rd rm rn s) := by
  intro t h
  obtain ⟨-, -, rfl⟩ | ⟨-, d, m, n, -, -, -, -, -, abort | ⟨old, u, -, stored, finish⟩⟩ := swapMemory_next h
  · exact clear
  · exact takeException_leavesClear _ _ t abort
  · obtain ⟨-, rfl⟩ := memWrite_done stored
    exact advance_leavesClear (by exact clear) t finish

theorem loadBlock_leavesClear (c : Cond) (mode : BlockMode) (wb : Bool) (rn : Reg) (list : BitVec 16)
    (bank : BlockBank) (special : Option Refusal) {finish : List (Reg × Word) → State → Result}
    (hf : ∀ vs u, u.afterUserTransfer = false → LeavesClear (finish vs u)) :
    LeavesClear (loadBlock c mode wb rn list bank special s finish) := by
  intro t h
  obtain ⟨-, -, rfl⟩ | ⟨-, n, -, -, -, -, abort | ⟨vs, -, finished⟩⟩ := loadBlock_next h
  · exact clear
  · exact takeException_leavesClear _ _ t abort
  · refine hf vs _ ?_ t finished
    rw [writeList_eq]
    cases wb <;> exact clear

theorem storeBlock_leavesClear (c : Cond) (mode : BlockMode) (wb : Bool) (rn : Reg) (list : BitVec 16)
    (bank : BlockBank) (special : Option Refusal) {finish : State → Result}
    (hf : ∀ u, u.afterUserTransfer = false → LeavesClear (finish u)) :
    LeavesClear (storeBlock c mode wb rn list bank special s finish) := by
  intro t h
  obtain ⟨-, -, rfl⟩ | ⟨-, n, -, -, -, ⟨u, -, abort⟩ | ⟨u, stored, finished⟩⟩ := storeBlock_next h
  · exact clear
  · exact takeException_leavesClear _ _ t abort
  · obtain ⟨unchanged, -, -⟩ := storeList_done stored
    refine hf _ ?_ t finished
    rw [unchanged]
    cases wb <;> exact clear

/-! ## Instructions that leave it clear -/

/-- Is the instruction a data-processing instruction or a single transfer? -/
def hasDpOrTransferForm (i : Instr) : Bool :=
  (dpForm? i).isSome || (loadForm? i).isSome || (storeForm? i).isSome

theorem exec_leavesClear_of_form {i : Instr} (form : hasDpOrTransferForm i = true) : LeavesClear (exec i s) := by
  simp only [hasDpOrTransferForm, Bool.or_eq_true, Option.isSome_iff_exists] at form
  obtain (⟨f, dp⟩ | ⟨f, load⟩) | ⟨f, store⟩ := form
  · rw [exec_of_dpForm dp]
    exact dataProcessing_leavesClear clear _ _ _ _ _ _
  · rw [exec_of_loadForm load]
    exact loadSingle_leavesClear clear _ _ _ _ _ _ _ _ _ _
  · rw [exec_of_storeForm store]
    exact storeSingle_leavesClear clear _ _ _ _ _ _ _ _ _

/-- LDM (1) and (3) and STM (1). -/
theorem exec_leavesClear_of_currentBank {i : Instr} {f : BlockForm} (form : blockForm? i = some f)
    (current : f.bank = .current) : LeavesClear (exec i s) := by
  cases i <;> cases form <;> cases current
  case ldm1 c mode wb rn list =>
    rw [exec, execLdm1]
    refine loadBlock_leavesClear clear _ _ _ _ _ _ _ fun vs u hu => ?_
    split
    · exact advance_leavesClear hu
    · exact branchTo_leavesClear hu _
  case ldm3 c mode wb rn list =>
    rw [exec, execLdm3]
    refine loadBlock_leavesClear clear _ _ _ _ _ _ _ fun vs u hu => ?_
    split
    · exact advance_leavesClear hu
    · exact exceptionReturn_leavesClear hu _
  case stm1 c mode wb rn list =>
    rw [exec, execStm1]
    exact storeBlock_leavesClear clear _ _ _ _ _ _ _ fun _ hu => advance_leavesClear hu

/-- LDM (2) and STM (2) that are not executed. -/
theorem exec_leavesClear_of_not_passes {i : Instr} {f : BlockForm} (form : blockForm? i = some f)
    (fails : ¬ Passes f.cond s) : LeavesClear (exec i s) := by
  cases load : f.load with
  | true =>
    obtain ⟨finish, run⟩ := exec_of_loadBlockForm form load s
    rw [run]
    exact whenPassed_leavesClear clear fun passes => absurd passes fails
  | false =>
    obtain ⟨finish, run⟩ := exec_of_storeBlockForm form load s
    rw [run]
    exact whenPassed_leavesClear clear fun passes => absurd passes fails

/-- LDM (2) and STM (2) whose condition passed are the only instructions that set the bit. -/
theorem exec_leavesClear {i : Instr}
    (other : ∀ f, blockForm? i = some f → f.bank = .userBank → ¬ Passes f.cond s) : LeavesClear (exec i s) := by
  cases i with
  | mrsCpsr c rd =>
    refine whenPassed_leavesClear clear fun _ => ?_
    cases rd with
    | r n => exact advance_leavesClear clear
    | pc => exact leavesClear_refused _
  | mrsSpsr c rd =>
    refine whenPassed_leavesClear clear fun _ => ?_
    cases rd with
    | r n =>
      dsimp only
      split
      · exact advance_leavesClear clear
      · exact leavesClear_refused _
    | pc => exact leavesClear_refused _
  | msrCpsrReg c mask rm =>
    refine whenPassed_leavesClear clear fun _ => ?_
    cases rm with
    | r n => exact writeCpsr_leavesClear clear _ _
    | pc => exact leavesClear_refused _
  | msrSpsrReg c mask rm =>
    refine whenPassed_leavesClear clear fun _ => ?_
    cases rm with
    | r n => exact writeSpsr_leavesClear clear _ _
    | pc => exact leavesClear_refused _
  | msrCpsrImm c mask rot imm => exact whenPassed_leavesClear clear fun _ => writeCpsr_leavesClear clear _ _
  | msrSpsrImm c mask rot imm => exact whenPassed_leavesClear clear fun _ => writeSpsr_leavesClear clear _ _
  | mul | mla =>
    refine whenPassed_leavesClear clear fun _ => ?_
    split
    · split
      · exact leavesClear_refused _
      · exact finishMul_leavesClear clear _ _ _
    · exact leavesClear_refused _
  | umull | umlal | smull | smlal =>
    dsimp only [exec, execUmull, execUmlal, execSmull, execSmlal]
    exact mulLong_leavesClear clear _ _ _ _ _ fun _ _ _ _ => finishMulLong_leavesClear clear _ _ _ _
  | b c imm => exact whenPassed_leavesClear clear fun _ => leavesClear_next clear
  | bl c imm =>
    refine whenPassed_leavesClear clear fun _ => ?_
    split
    · exact leavesClear_refused _
    · exact leavesClear_next clear
  | bx c rn =>
    refine whenPassed_leavesClear clear fun _ => ?_
    dsimp only
    split
    · exact leavesClear_refused _
    · exact branchTo_leavesClear (by exact clear) _
  | ldm1 | ldm3 | stm1 => exact exec_leavesClear_of_currentBank clear rfl rfl
  | ldm2 | stm2 => exact exec_leavesClear_of_not_passes clear rfl (other _ rfl rfl)
  | swp | swpb => exact swapMemory_leavesClear clear _ _ _ _ _
  | swi | undefinedSpace | coprocTransfer | coprocOperation =>
    exact whenPassed_leavesClear clear fun _ => takeException_leavesClear _ _
  | _ => exact exec_leavesClear_of_form clear rfl

end FromClear

/-! ## The User-bank transfers (47_load_store_multiple.md R310, R312) -/

theorem finishUserTransfer_next {s t : State} (h : finishUserTransfer s = .next t) : t.afterUserTransfer = true := by
  obtain ⟨-, rfl⟩ := advance_next h
  rfl

/-- An LDM (2) or STM (2) that runs sets the bit, unless it ends in a data abort. -/
theorem exec_userTransfer_next {i : Instr} {f : BlockForm} {s t : State} (form : blockForm? i = some f)
    (userBank : f.bank = .userBank) (passes : Passes f.cond s) (h : exec i s = .next t) :
    t.afterUserTransfer = true ∨ ∃ u, t = enterException .dataAbort u := by
  cases i <;> cases form <;> cases userBank
  case ldm2 c mode rn list =>
    obtain ⟨fails, -, -⟩ | ⟨-, n, -, -, -, -, abort | ⟨vs, -, finish⟩⟩ := loadBlock_next h
    · exact absurd passes fails
    · exact .inr ⟨_, (takeException_next abort).2⟩
    · exact .inl (finishUserTransfer_next finish)
  case stm2 c mode rn list =>
    obtain ⟨fails, -, -⟩ | ⟨-, n, -, -, -, ⟨u, -, abort⟩ | ⟨u, -, finish⟩⟩ := storeBlock_next h
    · exact absurd passes fails
    · exact .inr ⟨_, (takeException_next abort).2⟩
    · exact .inl (finishUserTransfer_next finish)

/-- Settles O11: the check comes before the condition, the bit is cleared before the instruction, and only a User-bank
transfer that runs sets it again. -/
theorem hazardAfterUserTransfer : Obligations.HazardAfterUserTransfer := by
  refine ⟨?refuses, ?onlySetters, fun i f s t => exec_userTransfer_next⟩
  case refuses =>
    intro s w i n fetches decoded hazard named banked
    have refuses : hazardRefuses i s = true := by simp [hazardRefuses, hazard, namesBanked_of_mem named banked]
    rw [step_of_decodeWord_ok fetches decoded, if_pos refuses]
  case onlySetters =>
    intro s t h isSet
    obtain ⟨e, rfl⟩ | ⟨w, i, fetches, decoded, -, run⟩ := step_next h
    · cases isSet
    · by_contra noTransfer
      have clear : t.afterUserTransfer = false := exec_leavesClear (clearHazard_afterUserTransfer (consumeInput s))
        (fun f form userBank passes => noTransfer ⟨w, i, f, fetches, decoded, form, userBank, passes⟩) t run
      exact Bool.false_ne_true (clear.symm.trans isSet)

end Sys2Proof.Machine
end

section
/-! What an instruction can do, said once: a series of updates of registers, flags, memory and status registers, and one
ending, which writes the pc. What every step keeps, and what it leaves alone, follows by the cases of the two
(00_scope.md R13; 10_state.md R35, R40). -/

namespace Sys2Proof.Machine

open Sys2Proof.Safety

/-! ## Updates and endings -/

/-- The instructions 10_state.md R40 lists as writers of the flags. -/
abbrev WritesFlags (i : Instr) : Prop :=
  (∃ f, dpForm? i = some f ∧ f.sf = true) ∨
  (∃ c rd rm rs, i = .mul c true rd rm rs) ∨ (∃ c rd rm rs rn, i = .mla c true rd rm rs rn) ∨
  (∃ c dl dh rm rs, i = .umull c true dl dh rm rs ∨ i = .umlal c true dl dh rm rs ∨
    i = .smull c true dl dh rm rs ∨ i = .smlal c true dl dh rm rs) ∨
  (∃ c mask rm, i = .msrCpsrReg c mask rm ∧ mask.getLsbD 3 = true) ∨
  (∃ c mask rot imm, i = .msrCpsrImm c mask rot imm ∧ mask.getLsbD 3 = true) ∨
  ∃ c mode wb rn list, i = .ldm3 c mode wb rn list

/-- `i` is an LDM (2) that runs in `s` and lists R`n` (47_load_store_multiple.md R310). -/
abbrev LoadsUserBank (i : Instr) (s : State) (n : Fin 15) : Prop :=
  ∃ c mode rn list, i = .ldm2 c mode rn list ∧ Passes c s ∧ list.getLsbD n.val = true

/-- What instruction `i`, run in `s`, can make of the state before it ends. -/
inductive Update (i : Instr) (s : State) : State → Prop
  | start : Update i s s
  | register {u : State} (n : Fin 15) (v : Word) : Update i s u → Update i s (writeGeneral u n v)
  | userBank {u : State} (n : Fin 15) (v : Word) : LoadsUserBank i s n → Update i s u → Update i s (writeUserBank u n v)
  | flags {u : State} (n z c v : Bool) : WritesFlags i → Update i s u →
      Update i s { u with cpsr := { u.cpsr with n := n, z := z, c := c, v := v } }
  | memory {u : State} (m : Memory) : (Memory.wf u.mem = true → Memory.wf m = true) →
      (∀ a, InCode u a 1 → readByte m a = readByte u.mem a) → Update i s u → Update i s { u with mem := m }
  | draws {u : State} (k : Nat) : Update i s u → Update i s { u with draws := k }
  | spsr {u : State} {e : ExcMode} (p : Spsr) : u.cpsr.m = .exc e → Update i s u →
      Update i s { u with spsr := u.spsr.set e p }

/-- What a new CPSR keeps of the old one, when `i` replaces it (40_conditions_operand2.md R159; 41_move_psr.md R168;
45_branch.md R252). -/
structure CpsrReplaced (i : Instr) (p q : Psr Mode) : Prop where
  thumb : p.t = false → q.t = false
  user : p.m = .user → q.m = .user ∧ q.i = p.i ∧ q.f = p.f
  flags : WritesFlags i ∨ (q.n = p.n ∧ q.z = p.z ∧ q.c = p.c ∧ q.v = p.v)

/-- How instruction `i` can end. -/
inductive Ending (i : Instr) (u : State) : State → Prop
  | jump {a : Word} : (wordAligned u.pc = true → wordAligned a = true) → Ending i u { u with pc := a }
  | userTransfer {a : Word} : HasSpsr u.cpsr.m → (wordAligned u.pc = true → wordAligned a = true) →
      Ending i u { u with pc := a, afterUserTransfer := true }
  | status {a : Word} {q : Psr Mode} : CpsrReplaced i u.cpsr q → (wordAligned u.pc = true → wordAligned a = true) →
      Ending i u { u with cpsr := q, pc := a }
  | trap (e : Exc) : Ending i u (enterException e u)

/-- The next state, if there is one, comes from updates of `s` and an ending. -/
def Effected (i : Instr) (s : State) (r : Result) : Prop :=
  ∀ t, r = .next t → ∃ u, Update i s u ∧ Ending i u t

/-! ## How the shared operations end -/

theorem Update.effected {i : Instr} {s u : State} {r : Result} (before : Update i s u)
    (ending : ∀ t, r = .next t → Ending i u t) : Effected i s r :=
  fun t h => ⟨u, before, ending t h⟩

theorem effected_refused (i : Instr) (s : State) (r : Refusal) : Effected i s (.refused r) := by
  rintro t ⟨⟩

section Endings

variable {i : Instr} {u t : State}

theorem advance_ending (h : advance u = .next t) : Ending i u t := by
  obtain ⟨-, rfl⟩ := advance_next h
  exact .jump wordAligned_add_four

theorem finishUserTransfer_ending (hasSpsr : HasSpsr u.cpsr.m) (h : finishUserTransfer u = .next t) :
    Ending i u t := by
  obtain ⟨-, rfl⟩ := advance_next h
  exact .userTransfer hasSpsr wordAligned_add_four

theorem branchTo_ending {v : Word} (h : branchTo v u = .next t) : Ending i u t := by
  obtain ⟨aligned, rfl⟩ := branchTo_next h
  exact .jump fun _ => aligned

theorem takeException_ending {e : Exc} (h : takeException e u = .next t) : Ending i u t := by
  obtain ⟨-, rfl⟩ := takeException_next h
  exact .trap e

/-- A return leaves an exception mode, and takes no SPSR with T set. -/
theorem exceptionReturn_ending (writes : WritesFlags i) {v : Word} (h : exceptionReturn v u = .next t) :
    Ending i u t := by
  obtain ⟨e, p, mode, noThumb, restored, aligned, rfl⟩ := exceptionReturn_next h
  refine .status ⟨fun _ => ?_, fun isUser => ?_, .inl writes⟩ fun _ => aligned
  · rw [← Psr.restore_some restored] at noThumb
    exact noThumb
  · rw [mode] at isUser
    cases isUser

/-- Control fields that are not selected keep their values. -/
theorem control_of_save_eq {p q : Psr Mode} {flags : Bool} {x : Word}
    (h : q.save = Psr.withFields flags false p.save x) : q.m = p.m ∧ q.i = p.i ∧ q.f = p.f := by
  obtain ⟨-, -, -, -, hi, hf, -, hm⟩ := Psr.mk.inj h
  have mode : some q.m = some p.m := by
    rw [← Mode.ofBits_bits q.m, ← Mode.ofBits_bits p.m]
    exact congrArg Mode.ofBits hm
  exact ⟨Option.some.inj mode, hi, hf⟩

/-- Flags that are not selected keep their values. -/
theorem flags_of_save_eq {p q : Psr Mode} {ctl : Bool} {x : Word}
    (h : q.save = Psr.withFields false ctl p.save x) : q.n = p.n ∧ q.z = p.z ∧ q.c = p.c ∧ q.v = p.v := by
  obtain ⟨hn, hz, hc, hv, -⟩ := Psr.mk.inj h
  exact ⟨hn, hz, hc, hv⟩

/-- In User mode an MSR changes the flags byte alone, and in no mode T (41_move_psr.md R168). -/
theorem writeCpsr_ending {mask : BitVec 4} {x : Word} (writes : mask.getLsbD 3 = true → WritesFlags i)
    (h : writeCpsr mask x u = .next t) : Ending i u t := by
  by_cases keepsT : (msrCpsrFields mask x u).t = u.cpsr.t
  case neg => rw [writeCpsr_of_altersT keepsT] at h; cases h
  cases restored : Psr.restore (msrCpsrFields mask x u) with
  | none => rw [writeCpsr_of_illegalMode keepsT restored] at h; cases h
  | some q =>
    rw [writeCpsr_of_restore keepsT restored] at h
    obtain ⟨-, rfl⟩ := advance_next h
    have fields : q.save = msrCpsrFields mask x u := Psr.restore_some restored
    refine .status ⟨fun clear => ?_, fun isUser => ?_, ?_⟩ wordAligned_add_four
    · exact (congrArg Psr.t fields).trans (keepsT.trans clear)
    · have noControl : (mask.getLsbD 0 && !userMode u) = false := by simp [userMode, isUser]
      rw [msrCpsrFields, noControl] at fields
      obtain ⟨mode, hi, hf⟩ := control_of_save_eq fields
      exact ⟨mode.trans isUser, hi, hf⟩
    · cases flagsByte : mask.getLsbD 3 with
      | true => exact .inl (writes flagsByte)
      | false =>
        rw [msrCpsrFields, flagsByte] at fields
        exact .inr (flags_of_save_eq fields)

end Endings

/-! ## The updates of the shared operations -/

section Updates

variable {i : Instr} {s u : State}

theorem Update.setFlags (writes : WritesFlags i) (out : AluOut) (h : Update i s u) : Update i s (setFlags out u) :=
  .flags _ _ _ _ writes h

theorem Update.setMulFlags (writes : WritesFlags i) (result : Word) (h : Update i s u) :
    Update i s (setMulFlags result u) :=
  .draws (u.draws + 1) (.flags result.msb (result == 0#32) (freeBit u 0) u.cpsr.v writes h)

theorem Update.setMulLongFlags (writes : WritesFlags i) (result : BitVec 64) (h : Update i s u) :
    Update i s (setMulLongFlags result u) :=
  .draws (u.draws + 2) (.flags result.msb (result == 0#64) (freeBit u 0) (freeBit u 1) writes h)

theorem Update.writeBack (ix : Indexing) (rn : Reg) (v : Word) (h : Update i s u) :
    Update i s (writeBack ix rn v u) := by
  obtain same | ⟨n, -, -, written⟩ := writeBack_cases ix rn v u
  · rwa [same]
  · rw [written]; exact .register n v h

/-- A write changes no byte of `CODE_REGION` (20_memory.md R85). -/
theorem readByte_storeBytes_inCode {addr v : Word} {n : Nat} {user : Bool} (can : CanWrite u addr n user) {a : Nat}
    (code : InCode u a 1) : readByte (storeBytes u.mem addr.toNat v n) a = readByte u.mem a := by
  obtain ⟨-, notCode, -⟩ := can
  refine readByte_storeBytes_outside _ _ ?_
  by_contra inside
  obtain ⟨j, hj, range, listed, holds⟩ := touches_eq_true.mp code
  obtain rfl : j = 0 := by omega
  exact notCode (touches_eq_true.mpr ⟨a - addr.toNat, by omega, range, listed, by
    rwa [Nat.add_sub_cancel' (by omega)]⟩)

theorem Update.memWrite {addr v : Word} {sz : Size} {user : Bool} {t : State} (h : Update i s u)
    (done : memWrite u addr sz v user = .done t) : Update i s t := by
  obtain ⟨can, rfl⟩ := memWrite_done done
  exact .memory _ (fun wf => Memory.wf_storeBytes wf (Reachable.fits can.1)) (fun _ => readByte_storeBytes_inCode can) h

theorem Update.writeBank {bank : BlockBank} (n : Fin 15) (v : Word) (allowed : bank = .userBank → LoadsUserBank i s n)
    (h : Update i s u) : Update i s (writeBank bank u n v) := by
  cases bank with
  | current => exact .register n v h
  | userBank => exact .userBank n v (allowed rfl) h

theorem Update.writeList {bank : BlockBank} {vs : List (Reg × Word)} (h : Update i s u)
    (allowed : bank = .userBank → ∀ n, .r n ∈ vs.map Prod.fst → LoadsUserBank i s n) :
    Update i s (writeList bank u vs) := by
  induction vs generalizing u with
  | nil => exact h
  | cons p rest ih =>
    have later := fun hb n hn => allowed hb n (List.mem_cons_of_mem _ hn)
    obtain ⟨r | _, v⟩ := p
    · exact ih (h.writeBank _ _ fun hb => allowed hb _ (List.mem_cons_self ..)) later
    · exact ih h later

theorem Update.scrambleList {bank : BlockBank} {k : Nat} {regs : List Reg} (h : Update i s u)
    (allowed : bank = .userBank → ∀ n, .r n ∈ regs → LoadsUserBank i s n) :
    Update i s (scrambleList bank u k regs) := by
  induction regs generalizing u k with
  | nil => exact .draws _ h
  | cons r rest ih =>
    have later := fun hb n hn => allowed hb n (List.mem_cons_of_mem _ hn)
    cases r with
    | r n => exact ih (h.writeBank _ _ fun hb => allowed hb _ (List.mem_cons_self ..)) later
    | pc => exact ih h later

theorem Update.storeList_done {bank : BlockBank} {t : State} {a : Nat} {regs : List Reg} (h : Update i s u)
    (stored : storeList bank u u a regs = .done t) : Update i s t := by
  obtain ⟨unchanged, wf, code⟩ := Machine.storeList_done stored
  rw [unchanged]
  exact .memory _ wf code h

theorem Update.storeList_abort {bank : BlockBank} {t : State} {a : Nat} {regs : List Reg} (h : Update i s u)
    (stored : storeList bank u u a regs = .abort t) : Update i s t := by
  obtain ⟨unchanged, wf, code⟩ := Machine.storeList_abort stored
  rw [unchanged]
  exact .memory _ wf code h

end Updates

/-! ## The effect of each shared operation -/

section Effects

variable {i : Instr} {s : State}

theorem effected_skip : Effected i s (.next { s with pc := s.pc + 4#32 }) := by
  rintro t ⟨⟩
  exact ⟨s, .start, .jump wordAligned_add_four⟩

theorem whenPassed_effected {c : Cond} {body : Result} (h : Passes c s → Effected i s body) :
    Effected i s (whenPassed c s body) := by
  intro t ht
  obtain ⟨passes, ht⟩ | ⟨-, -, rfl⟩ := whenPassed_next ht
  · exact h passes t ht
  · exact effected_skip _ rfl

theorem advance_effected {u : State} (before : Update i s u) : Effected i s (advance u) :=
  before.effected fun _ => advance_ending

/-- A form without `Rd` is a compare, which sets the flags. -/
theorem sf_of_dpForm_of_noRd {f : DpForm} (form : dpForm? i = some f) (noRd : f.rd = none) : f.sf = true := by
  cases i <;> simp only [dpForm?, Option.some.injEq, reduceCtorEq] at form <;> subst form <;> simp_all

theorem finishDataProcessing_effected {sf : Bool} {rd : Option Reg} (writes : sf = true → WritesFlags i)
    (compare : rd = none → sf = true) (out : AluOut) : Effected i s (finishDataProcessing sf rd out s) := by
  match rd with
  | none => exact advance_effected (.setFlags (writes (compare rfl)) out .start)
  | some (.r n) =>
    refine advance_effected (.register n _ ?_)
    cases sf with
    | false => exact .start
    | true => exact .setFlags (writes rfl) out .start
  | some .pc =>
    cases sf with
    | false => exact Update.start.effected fun _ => branchTo_ending
    | true => exact Update.start.effected fun _ => exceptionReturn_ending (writes rfl)

theorem dataProcessing_effected {f : DpForm} (form : dpForm? i = some f) :
    Effected i s (dataProcessing f.op f.cond f.sf f.rd f.rn f.o s) := by
  refine whenPassed_effected fun _ => ?_
  split
  · exact effected_refused _ _ _
  · exact finishDataProcessing_effected (fun withS => .inl ⟨f, form, withS⟩) (sf_of_dpForm_of_noRd form) _

theorem abortTransfer_effected (ix : Indexing) (rn : Reg) (newBase : Word) :
    Effected i s (abortTransfer ix rn newBase s) := by
  intro t h
  obtain rfl | rfl := abortTransfer_next h
  · exact ⟨s, .start, .trap _⟩
  · exact ⟨_, .writeBack _ _ _ .start, .trap _⟩

theorem loadSingle_effected (c : Cond) (sz : Size) (signed forceUser : Bool) (pcRule : Option Refusal) (ix : Indexing)
    (up : Bool) (rd rn : Reg) (o : Offset) :
    Effected i s (loadSingle c sz signed forceUser pcRule ix up rd rn o s) := by
  intro t h
  obtain ⟨-, -, rfl⟩ | ⟨-, -, ⟨-, abort⟩ | ⟨data, -, finish⟩⟩ := loadSingle_next h
  · exact effected_skip _ rfl
  · exact abortTransfer_effected _ _ _ t abort
  · have base : Update i s _ := .writeBack ix rn (transferAddress ix up rn o s).2 .start
    obtain ⟨n, -, -, rfl⟩ | ⟨-, aligned, rfl⟩ := finishLoad_next finish
    · exact ⟨_, .register n _ base, .jump wordAligned_add_four⟩
    · exact ⟨_, base, .jump fun _ => aligned⟩

theorem storeSingle_effected (c : Cond) (sz : Size) (forceUser : Bool) (pcRule : Option Refusal) (ix : Indexing)
    (up : Bool) (rd rn : Reg) (o : Offset) :
    Effected i s (storeSingle c sz forceUser pcRule ix up rd rn o s) := by
  intro t h
  obtain ⟨-, -, rfl⟩ | ⟨-, -, v, -, ⟨-, abort⟩ | ⟨u, stored, finish⟩⟩ := storeSingle_next h
  · exact effected_skip _ rfl
  · exact abortTransfer_effected _ _ _ t abort
  · exact advance_effected ((Update.start.memWrite stored).writeBack ix rn _) t finish

theorem swapMemory_effected (c : Cond) (sz : Size) (rd rm rn : Reg) : Effected i s (swapMemory c sz rd rm rn s) := by
  intro t h
  obtain ⟨-, -, rfl⟩ | ⟨-, d, m, n, -, -, -, -, -, abort | ⟨old, u, -, stored, finish⟩⟩ := swapMemory_next h
  · exact effected_skip _ rfl
  · exact ⟨s, .start, takeException_ending abort⟩
  · exact advance_effected (.register d old (Update.start.memWrite stored)) t finish

theorem finishMul_effected {sf : Bool} (writes : sf = true → WritesFlags i) (d : Fin 15) (result : Word) :
    Effected i s (finishMul sf d result s) := by
  refine advance_effected (.register d result ?_)
  cases sf with
  | false => exact .start
  | true => exact .setMulFlags (writes rfl) result .start

theorem finishMulLong_effected {sf : Bool} (writes : sf = true → WritesFlags i) (dLo dHi : Fin 15)
    (result : BitVec 64) : Effected i s (finishMulLong sf dLo dHi result s) := by
  refine advance_effected (.register dLo _ (.register dHi _ ?_))
  cases sf with
  | false => exact .start
  | true => exact .setMulLongFlags (writes rfl) result .start

theorem mulLong_effected (c : Cond) (rdLo rdHi rm rs : Reg) {body : Fin 15 → Fin 15 → Word → Word → Result}
    (hb : ∀ dLo dHi a b, Effected i s (body dLo dHi a b)) : Effected i s (mulLong c rdLo rdHi rm rs s body) := by
  refine whenPassed_effected fun _ => ?_
  split
  · split
    · exact effected_refused _ _ _
    · exact hb _ _ _ _
  · exact effected_refused _ _ _

theorem writeCpsr_effected {mask : BitVec 4} {x : Word} (writes : mask.getLsbD 3 = true → WritesFlags i) :
    Effected i s (writeCpsr mask x s) :=
  Update.start.effected fun _ => writeCpsr_ending writes

theorem writeSpsr_effected (mask : BitVec 4) (x : Word) : Effected i s (writeSpsr mask x s) := by
  unfold writeSpsr
  split
  · next e mode => exact advance_effected (.spsr _ mode .start)
  · exact effected_refused _ _ _

theorem loadBlock_effected {c : Cond} {mode : BlockMode} {wb : Bool} {rn : Reg} {list : BitVec 16} {bank : BlockBank}
    {special : Option Refusal} {finish : List (Reg × Word) → State → Result}
    (allowed : Passes c s → bank = .userBank → ∀ n, list.getLsbD n.val = true → LoadsUserBank i s n)
    (finishes : special = none → ∀ vs u, u.cpsr = s.cpsr → Update i s u → Effected i s (finish vs u)) :
    Effected i s (loadBlock c mode wb rn list bank special s finish) := by
  intro t h
  obtain ⟨-, -, rfl⟩ | ⟨passes, n, -, -, free, -, abort | ⟨vs, loaded, finished⟩⟩ := loadBlock_next h
  · exact effected_skip _ rfl
  · exact ⟨_, .register n _ (.scrambleList .start fun hb k hk => allowed passes hb k (mem_listedRegs_r.mp hk)),
      takeException_ending abort⟩
  · refine finishes free vs _ ?_ (.writeList ?_ fun hb k hk => ?_) t finished
    · rw [writeList_eq]
      cases wb <;> rfl
    · cases wb with
      | false => exact .start
      | true => exact .register n _ .start
    · rw [loadList_done_map loaded] at hk
      exact allowed passes hb k (mem_listedRegs_r.mp hk)

theorem storeBlock_effected {c : Cond} {mode : BlockMode} {wb : Bool} {rn : Reg} {list : BitVec 16} {bank : BlockBank}
    {special : Option Refusal} {finish : State → Result}
    (finishes : special = none → ∀ u, u.cpsr = s.cpsr → Update i s u → Effected i s (finish u)) :
    Effected i s (storeBlock c mode wb rn list bank special s finish) := by
  intro t h
  obtain ⟨-, -, rfl⟩ | ⟨-, n, -, -, free, ⟨u, stored, abort⟩ | ⟨u, stored, finished⟩⟩ := storeBlock_next h
  · exact effected_skip _ rfl
  · exact ⟨_, .register n _ (Update.start.storeList_abort stored), takeException_ending abort⟩
  · have before := Update.start (i := i).storeList_done stored
    obtain ⟨unchanged, -, -⟩ := storeList_done stored
    have status : u.cpsr = s.cpsr := by rw [unchanged]
    cases wb with
    | false => exact finishes free u status before t finished
    | true => exact finishes free (writeGeneral u n _) status (.register n _ before) t finished

end Effects

/-! ## The effect of each instruction -/

theorem wordAligned_add_eight_add_shift {v w : Word} (h : wordAligned v = true) :
    wordAligned (v + 8#32 + w <<< 2) = true := by
  rw [wordAligned_iff] at h ⊢
  simp only [BitVec.toNat_add, BitVec.toNat_shiftLeft, BitVec.toNat_ofNat, Nat.shiftLeft_eq]
  omega

theorem hasSpsr_of_userBankRefusal {s : State} (h : userBankRefusal s = none) : HasSpsr s.cpsr.m := by
  unfold userBankRefusal at h
  split at h
  · next e mode => rw [mode]; exact hasSpsr_exc e
  · cases h

/-- BX clears T and writes nothing else of the CPSR (45_branch.md R252). -/
theorem bx_ending {i : Instr} {v : Word} {s t : State}
    (h : branchTo v { s with cpsr := { s.cpsr with t := false } } = .next t) : Ending i s t := by
  obtain ⟨aligned, rfl⟩ := branchTo_next h
  exact .status ⟨fun _ => rfl, fun isUser => ⟨isUser, rfl, rfl⟩, .inr ⟨rfl, rfl, rfl, rfl⟩⟩ fun _ => aligned

theorem exec_effected_of_form {i : Instr} (form : hasDpOrTransferForm i = true) (s : State) :
    Effected i s (exec i s) := by
  simp only [hasDpOrTransferForm, Bool.or_eq_true, Option.isSome_iff_exists] at form
  obtain (⟨f, dp⟩ | ⟨f, load⟩) | ⟨f, store⟩ := form
  · rw [exec_of_dpForm dp]
    exact dataProcessing_effected dp
  · rw [exec_of_loadForm load]
    exact loadSingle_effected _ _ _ _ _ _ _ _ _ _
  · rw [exec_of_storeForm store]
    exact storeSingle_effected _ _ _ _ _ _ _ _ _

theorem exec_effected_of_blockForm {i : Instr} {f : BlockForm} (form : blockForm? i = some f) (s : State) :
    Effected i s (exec i s) := by
  cases i <;> cases form
  case ldm1 c mode wb rn list =>
    rw [exec, execLdm1]
    refine loadBlock_effected (fun _ => BlockBank.noConfusion) fun _ vs u _ before => ?_
    split
    · exact advance_effected before
    · exact before.effected fun _ => branchTo_ending
  case ldm3 c mode wb rn list =>
    have writes : WritesFlags (.ldm3 c mode wb rn list) := by simp [WritesFlags]
    rw [exec, execLdm3]
    refine loadBlock_effected (fun _ => BlockBank.noConfusion) fun _ vs u _ before => ?_
    split
    · exact advance_effected before
    · exact before.effected fun _ => exceptionReturn_ending writes
  case ldm2 c mode rn list =>
    rw [exec, execLdm2]
    refine loadBlock_effected (fun passes _ n listed => ⟨c, mode, rn, list, rfl, passes, listed⟩)
      fun free vs u status before => before.effected fun _ => finishUserTransfer_ending ?_
    rw [status]
    exact hasSpsr_of_userBankRefusal free
  case stm1 c mode wb rn list =>
    rw [exec, execStm1]
    exact storeBlock_effected fun _ u _ before => advance_effected before
  case stm2 c mode rn list =>
    rw [exec, execStm2]
    refine storeBlock_effected fun free u status before => before.effected fun _ => finishUserTransfer_ending ?_
    rw [status]
    exact hasSpsr_of_userBankRefusal free

/-- Every instruction is a series of updates and an ending. -/
theorem exec_effected (i : Instr) (s : State) : Effected i s (exec i s) := by
  cases i with
  | mrsCpsr c rd =>
    refine whenPassed_effected fun _ => ?_
    cases rd with
    | r n => exact advance_effected (.register n _ .start)
    | pc => exact effected_refused _ _ _
  | mrsSpsr c rd =>
    refine whenPassed_effected fun _ => ?_
    cases rd with
    | r n =>
      dsimp only
      split
      · exact advance_effected (.register n _ .start)
      · exact effected_refused _ _ _
    | pc => exact effected_refused _ _ _
  | msrCpsrReg c mask rm =>
    refine whenPassed_effected fun _ => ?_
    cases rm with
    | r n => exact writeCpsr_effected fun selected => by simp [WritesFlags, selected]
    | pc => exact effected_refused _ _ _
  | msrSpsrReg c mask rm =>
    refine whenPassed_effected fun _ => ?_
    cases rm with
    | r n => exact writeSpsr_effected _ _
    | pc => exact effected_refused _ _ _
  | msrCpsrImm c mask rot imm =>
    exact whenPassed_effected fun _ => writeCpsr_effected fun selected => by simp [WritesFlags, selected]
  | msrSpsrImm c mask rot imm => exact whenPassed_effected fun _ => writeSpsr_effected _ _
  | mul | mla =>
    refine whenPassed_effected fun _ => ?_
    split
    · split
      · exact effected_refused _ _ _
      · exact finishMul_effected (by rintro rfl; simp [WritesFlags]) _ _
    · exact effected_refused _ _ _
  | umull | umlal | smull | smlal =>
    dsimp only [exec, execUmull, execUmlal, execSmull, execSmlal]
    exact mulLong_effected _ _ _ _ _ fun _ _ _ _ => finishMulLong_effected (by rintro rfl; simp [WritesFlags]) _ _ _
  | b c imm =>
    refine whenPassed_effected fun _ => Update.start.effected ?_
    rintro t ⟨⟩
    exact .jump wordAligned_add_eight_add_shift
  | bl c imm =>
    refine whenPassed_effected fun _ => ?_
    split
    · exact effected_refused _ _ _
    · next link _ =>
      rintro t ⟨⟩
      exact ⟨_, .register 14 link .start, .jump wordAligned_add_eight_add_shift⟩
  | bx c rn =>
    refine whenPassed_effected fun _ => ?_
    dsimp only
    split
    · exact effected_refused _ _ _
    · exact Update.start.effected fun _ => bx_ending
  | ldm1 | ldm3 | ldm2 | stm1 | stm2 => exact exec_effected_of_blockForm rfl s
  | swp | swpb => exact swapMemory_effected _ _ _ _ _
  | swi | undefinedSpace | coprocTransfer | coprocOperation =>
    exact whenPassed_effected fun _ => Update.start.effected fun _ => takeException_ending
  | _ => exact exec_effected_of_form rfl s

end Sys2Proof.Machine
end

section
/-! The statements on the whole machine: the invariant, CODE_REGION, the writers of the flags, User mode and the banked
registers, each from what the updates and the endings leave alone (10_state.md R32 to R48; 20_memory.md R85;
60_exceptions.md R353, R354). -/

namespace Sys2Proof.Machine

open Sys2Proof.Safety

/-! ## What the updates keep -/

section Kept

variable {i : Instr} {s u : State} (h : Update i s u)
include h

theorem Update.pc_eq : u.pc = s.pc := by
  induction h with
  | start => rfl
  | _ => assumption

theorem Update.platform_eq : u.platform = s.platform := by
  induction h with
  | start => rfl
  | _ => assumption

theorem Update.afterUserTransfer_eq : u.afterUserTransfer = s.afterUserTransfer := by
  induction h with
  | start => rfl
  | _ => assumption

theorem Update.mem_wf (wf : Memory.wf s.mem = true) : Memory.wf u.mem = true := by
  induction h with
  | start => exact wf
  | memory m keeps _ _ ih => exact keeps ih
  | _ => assumption

theorem Update.readByte_code {a : Nat} (code : InCode s a 1) : readByte u.mem a = readByte s.mem a := by
  induction h with
  | start => rfl
  | memory m _ keeps before ih => exact (keeps a (by rwa [InCode, before.platform_eq])).trans ih
  | _ => assumption

/-- Of the CPSR, the updates write flags alone. -/
theorem Update.control_eq :
    u.cpsr.m = s.cpsr.m ∧ u.cpsr.i = s.cpsr.i ∧ u.cpsr.f = s.cpsr.f ∧ u.cpsr.t = s.cpsr.t := by
  induction h with
  | start => exact ⟨rfl, rfl, rfl, rfl⟩
  | _ => assumption

theorem Update.flags_eq :
    WritesFlags i ∨ (u.cpsr.n = s.cpsr.n ∧ u.cpsr.z = s.cpsr.z ∧ u.cpsr.c = s.cpsr.c ∧ u.cpsr.v = s.cpsr.v) := by
  induction h with
  | start => exact .inr ⟨rfl, rfl, rfl, rfl⟩
  | flags _ _ _ _ writes _ _ => exact .inl writes
  | _ => assumption

/-- Only a mode with an SPSR writes one. -/
theorem Update.spsr_eq (noSpsr : ¬ HasSpsr s.cpsr.m) : u.spsr = s.spsr := by
  induction h with
  | start => rfl
  | spsr p mode before _ =>
    obtain ⟨modes, -⟩ := before.control_eq
    exact absurd (modes ▸ mode ▸ hasSpsr_exc _) noSpsr
  | _ => assumption

/-- A register the mode does not name is written by an LDM (2) alone. -/
theorem Update.regs_get_eq {p : PhysReg} (unnamed : ∀ n, physReg s.cpsr.m n ≠ p) :
    u.regs.get p = s.regs.get p ∨ ∃ n, LoadsUserBank i s n ∧ p = .user n := by
  induction h with
  | start => exact .inl rfl
  | register n v before ih =>
    obtain ⟨modes, -⟩ := before.control_eq
    rw [writeGeneral_get_other _ _ (modes ▸ (unnamed n).symm)]
    exact ih
  | userBank n v loads before ih =>
    by_cases same : p = .user n
    · exact .inr ⟨n, loads, same⟩
    · rw [writeUserBank_regs, RegFile.get_set_other _ _ same]
      exact ih
  | _ => assumption

end Kept

/-! ## The invariant -/

theorem wordAligned_vector (e : Exc) : wordAligned (Config.vectorBase + e.vector) = true := by
  cases e <;> rfl

theorem enterException_inv (e : Exc) {s : State} (wf : Memory.wf s.mem = true) : Inv (enterException e s) :=
  ⟨wf, wordAligned_vector e, rfl, nofun⟩

/-- From a state that meets the invariant with the hazard bit clear, the bit is set only by the ending that asks for an
SPSR. -/
theorem exec_inv {i : Instr} {s t : State} (inv : Inv s) (clear : s.afterUserTransfer = false)
    (h : exec i s = .next t) : Inv t := by
  obtain ⟨wf, aligned, noThumb, -⟩ := inv
  obtain ⟨u, before, ending⟩ := exec_effected i s t h
  have wf' := before.mem_wf wf
  have aligned' : wordAligned u.pc = true := by rwa [before.pc_eq]
  have clear' : u.afterUserTransfer = false := before.afterUserTransfer_eq.trans clear
  obtain ⟨-, -, -, thumb⟩ := before.control_eq
  cases ending with
  | jump keeps => exact ⟨wf', keeps aligned', thumb.trans noThumb, fun isSet => by simp [clear'] at isSet⟩
  | userTransfer hasSpsr keeps => exact ⟨wf', keeps aligned', thumb.trans noThumb, fun _ => hasSpsr⟩
  | status replaced keeps =>
    exact ⟨wf', keeps aligned', replaced.thumb (thumb.trans noThumb), fun isSet => by simp [clear'] at isSet⟩
  | trap e => exact enterException_inv e wf'

/-- Settles O55: an exception's entry establishes the invariant, and the instruction fetched keeps it. -/
theorem stepKeepsInvariant : Obligations.StepKeepsInvariant := by
  intro s t inv h
  obtain ⟨wf, aligned, noThumb, -⟩ := inv
  obtain ⟨e, rfl⟩ | ⟨w, i, -, -, -, run⟩ := step_next h
  · exact enterException_inv e wf
  · exact exec_inv (s := clearHazard (consumeInput s)) ⟨wf, aligned, noThumb, nofun⟩ rfl run

/-- Settles O56: each field of the state after reset is the one the invariant asks for. -/
theorem resetMeetsInvariant : Obligations.ResetMeetsInvariant :=
  ⟨Memory.wf_reset, rfl, rfl, nofun⟩

/-! ## The platform and CODE_REGION (00_scope.md R17; 20_memory.md R85) -/

theorem Ending.platform_eq {i : Instr} {u t : State} (h : Ending i u t) : t.platform = u.platform := by
  cases h <;> rfl

theorem Ending.mem_eq {i : Instr} {u t : State} (h : Ending i u t) : t.mem = u.mem := by
  cases h <;> rfl

/-- Settles O34: the endings leave the platform and memory alone, the updates the platform and the bytes of the code. -/
theorem codeRegionNeverChanges : Obligations.CodeRegionNeverChanges := by
  refine ⟨fun s t h => ?platform, fun s t a h code => ?code⟩
  case platform =>
    obtain ⟨e, rfl⟩ | ⟨w, i, -, -, -, run⟩ := step_next h
    · rfl
    · obtain ⟨u, before, ending⟩ := exec_effected _ _ t run
      exact ending.platform_eq.trans before.platform_eq
  case code =>
    obtain ⟨e, rfl⟩ | ⟨w, i, -, -, -, run⟩ := step_next h
    · rfl
    · obtain ⟨u, before, ending⟩ := exec_effected _ _ t run
      rw [ending.mem_eq]
      exact before.readByte_code code

/-! ## The writers of the flags (10_state.md R40) -/

theorem Ending.flags_eq {i : Instr} {u t : State} (h : Ending i u t) :
    WritesFlags i ∨ (t.cpsr.n = u.cpsr.n ∧ t.cpsr.z = u.cpsr.z ∧ t.cpsr.c = u.cpsr.c ∧ t.cpsr.v = u.cpsr.v) := by
  cases h with
  | status replaced _ => exact replaced.flags
  | _ => exact .inr ⟨rfl, rfl, rfl, rfl⟩

/-- Settles O27: an update or an ending that writes a flag belongs to a listed instruction. -/
theorem flagWriters : Obligations.FlagWriters := by
  intro i s t h changed
  obtain ⟨u, before, ending⟩ := exec_effected i s t h
  obtain writes | ⟨hn, hz, hc, hv⟩ := before.flags_eq
  · exact writes
  obtain writes | ⟨hn', hz', hc', hv'⟩ := ending.flags_eq
  · exact writes
  · simp [hn', hn, hz', hz, hc', hc, hv', hv] at changed

/-! ## User mode (60_exceptions.md R353, R354) -/

/-- No number names a register of another bank in User mode. -/
theorem not_physReg_user {p : PhysReg} (banked : ∀ n, p ≠ .user n) (n : Fin 15) : physReg .user n ≠ p := by
  rw [physReg_of_not_hasSpsr n fun h => h.1 rfl]
  exact (banked n).symm

/-- What taking an exception from a state in User mode does to the other modes. -/
theorem enterException_fromUser (e : Exc) {s : State} (isUser : s.cpsr.m = .user) :
    ((enterException e s).spsr.get e.mode).m = 0b10000#5 ∧
      (∀ e', e' ≠ e.mode → (enterException e s).spsr.get e' = s.spsr.get e') ∧
      ∀ p, p ≠ .r14 e.mode → (enterException e s).regs.get p = s.regs.get p := by
  refine ⟨?_, fun e' other => Banked.get_set_other _ _ other, fun p other => RegFile.get_set_other _ _ other⟩
  rw [enterException_spsr, Banked.get_set_same, Psr.save, isUser]
  rfl

/-- Settles O59: the updates and the endings from User mode, of which only the trap leaves it. -/
theorem userModeIsConfined : Obligations.UserModeIsConfined := by
  intro s t isUser h
  obtain ⟨e, rfl⟩ | ⟨w, i, -, -, -, run⟩ := step_next h
  · obtain ⟨saved, spsrs, regs⟩ := enterException_fromUser e (s := consumeInput s) isUser
    exact .inr ⟨e, rfl, rfl, rfl, saved, spsrs, fun p _ => regs p⟩
  obtain ⟨u, before, ending⟩ := exec_effected _ _ t run
  obtain ⟨mode, irq, fiq, -⟩ := before.control_eq
  have spsrs : u.spsr = s.spsr := before.spsr_eq fun hasSpsr => hasSpsr.1 isUser
  have regs : ∀ p, (∀ n, p ≠ .user n) → u.regs.get p = s.regs.get p := by
    intro p banked
    obtain same | ⟨n, -, rfl⟩ := before.regs_get_eq (p := p) fun n => by
      rw [clearHazard_cpsr, consumeInput_cpsr, isUser]
      exact not_physReg_user banked n
    · exact same
    · exact absurd rfl (banked n)
  have isUser' : u.cpsr.m = .user := mode.trans isUser
  cases ending with
  | jump _ => exact .inl ⟨isUser', irq, fiq, spsrs, regs⟩
  | userTransfer hasSpsr _ => exact absurd isUser' hasSpsr.1
  | status replaced _ =>
    obtain ⟨mode', irq', fiq'⟩ := replaced.user isUser'
    exact .inl ⟨mode', irq'.trans irq, fiq'.trans fiq, spsrs, regs⟩
  | trap e =>
    obtain ⟨saved, otherSpsrs, otherRegs⟩ := enterException_fromUser e isUser'
    exact .inr ⟨e, rfl, rfl, rfl, saved, fun e' other => (otherSpsrs e' other).trans (by rw [spsrs]),
      fun p banked other => (otherRegs p other).trans (regs p banked)⟩

/-! ## Banked registers (10_state.md R32, R34) -/

/-- The registers of a state reached by taking an exception: the link went to the R14 of the mode entered. -/
theorem enterException_regs_get (e : Exc) (s : State) (p : PhysReg) :
    (enterException e s).regs.get p = s.regs.get p ∨ p = .r14 e.mode := by
  by_cases link : p = .r14 e.mode
  · exact .inr link
  · exact .inl (RegFile.get_set_other _ _ link)

/-- An ending writes no register, but for the R14 a trap writes. -/
theorem Ending.regs_get_eq {i : Instr} {u t : State} (h : Ending i u t) (p : PhysReg) :
    t.regs.get p = u.regs.get p ∨
      ∃ e : Exc, p = .r14 e.mode ∧ t.cpsr.m = .exc e.mode ∧ t.pc = Config.vectorBase + e.vector := by
  cases h with
  | trap e => exact (enterException_regs_get e u p).imp_right fun link => ⟨e, link, rfl, rfl⟩
  | _ => exact .inl rfl

/-- Settles O60: the two exceptions are the trap's R14 and the User-bank update of an LDM (2). -/
theorem bankedRegistersKeepTheirValues : Obligations.BankedRegistersKeepTheirValues := by
  intro s t p h unnamed
  obtain ⟨e, rfl⟩ | ⟨w, i, fetches, decoded, -, run⟩ := step_next h
  · exact (enterException_regs_get e (consumeInput s) p).imp_right fun link => .inl ⟨e, link, rfl, rfl⟩
  obtain ⟨u, before, ending⟩ := exec_effected _ _ t run
  obtain kept | taken := ending.regs_get_eq p
  · obtain kept' | ⟨n, ⟨c, mode, rn, list, rfl, passes, listed⟩, rfl⟩ := before.regs_get_eq unnamed
    · exact .inl (kept.trans kept')
    · exact .inr (.inr ⟨w, c, mode, rn, list, n, fetches, decoded, passes, listed, rfl⟩)
  · exact .inr (.inl taken)

end Sys2Proof.Machine
end

section
/-! The decoder and the encoder: a word is its row's fixed bits and its fields, so what is written in a field is read
back, and what is read is written back (30_encoding.md R100 to R125). -/

namespace Sys2Proof

open Sys2Proof.Safety

/-! ## Fields and the bits they take -/

/-- The bits of the `n`-bit field from bit `lo` up. -/
def fieldMask (lo n : Nat) : Word := place lo (BitVec.allOnes n)

theorem getLsbD_fieldMask (lo n i : Nat) :
    (fieldMask lo n).getLsbD i = (decide (i < 32) && decide (lo ≤ i) && decide (i - lo < n)) := by
  rw [fieldMask, getLsbD_place, BitVec.getLsbD_allOnes]

/-- A field read and written back is the word's bits there. -/
theorem place_fieldAt (lo n : Nat) (w : Word) : place lo (fieldAt lo n w) = w &&& fieldMask lo n := by
  refine BitVec.eq_of_getLsbD_eq fun i hi => ?_
  rw [getLsbD_place, getLsbD_fieldAt, BitVec.getLsbD_and, getLsbD_fieldMask]
  by_cases h : lo ≤ i
  · rw [Nat.add_sub_cancel' h]
    cases w.getLsbD i <;> simp [h]
  · simp [h]

theorem placeFlag_flagAt (lo : Nat) (w : Word) : placeFlag lo (flagAt lo w) = w &&& fieldMask lo 1 := by
  rw [← place_fieldAt, placeFlag]
  congr 1
  refine BitVec.eq_of_getLsbD_eq fun i hi => ?_
  obtain rfl : i = 0 := by omega
  rw [getLsbD_fieldAt, flagAt_eq]
  simp

theorem place_regAt (lo : Nat) (w : Word) : place lo (regAt lo w).code = w &&& fieldMask lo 4 := by
  rw [regAt, Reg.code_ofCode, place_fieldAt]

theorem place_shiftAt (w : Word) : place 5 (shiftAt w).code = w &&& fieldMask 5 2 := by
  rw [shiftAt, Shift.code_ofCode, place_fieldAt]

theorem place_modeAt (w : Word) : place 23 (modeAt w).code = w &&& fieldMask 23 2 := by
  rw [modeAt, BlockMode.code_ofCode, place_fieldAt]

theorem placeOffset8_offset8At (w : Word) :
    placeOffset8 (offset8At w) = w &&& (fieldMask 8 4 ||| fieldMask 0 4) := by
  rw [placeOffset8, BitVec.and_or_distrib_left, ← place_fieldAt, ← place_fieldAt, offset8At]
  congr 2
  · exact BitVec.extractLsb'_append_eq_left
  · exact BitVec.extractLsb'_append_eq_right

/-- Bits a word has fixed and bits taken from the word make the word, where they are all its bits. -/
theorem pattern_or_fields {w mask pattern fields : Word} (meets : w &&& mask = pattern)
    (cover : mask ||| fields = BitVec.allOnes 32) : pattern ||| w &&& fields = w := by
  rw [← meets, ← BitVec.and_or_distrib_left, cover, BitVec.and_allOnes]

/-! ## A word the decoder accepts (30_encoding.md R101) -/

/-- The instruction a row reads from a word that meets it is well formed and has that word as its encoding. -/
def Row.ReadsBack (r : Row) : Prop :=
  ∀ (c : Cond) (w : Word), c.code = fieldAt 28 4 w → w &&& r.mask = r.pattern →
    WellFormed (r.build c w) = true ∧ encodeWord (r.build c w) = w

/-- A row reads back when the encoder writes its fixed bits and, of the word, a set of bits that covers the others. -/
theorem Row.readsBack_of_fields {r : Row} (fields : Word) (cover : r.mask ||| fields = BitVec.allOnes 32)
    (wf : ∀ c w, w &&& r.mask = r.pattern → WellFormed (r.build c w) = true)
    (encodes : ∀ c w, c.code = fieldAt 28 4 w → encodeWord (r.build c w) = r.pattern ||| w &&& fields) :
    r.ReadsBack :=
  fun c w cond meets => ⟨wf c w meets, (encodes c w cond).trans (pattern_or_fields meets cover)⟩

/-- In most rows the fields are just the bits that are not fixed. -/
theorem Row.readsBack_of_others {r : Row} (wf : ∀ c w, WellFormed (r.build c w) = true)
    (encodes : ∀ c w, c.code = fieldAt 28 4 w → encodeWord (r.build c w) = r.pattern ||| w &&& ~~~r.mask) :
    r.ReadsBack :=
  Row.readsBack_of_fields _ (BitVec.or_not_self _) (fun c w _ => wf c w) encodes

/-- LDM (2) and LDM (3) fix bit 15, which their register list holds too (30_encoding.md R118). -/
theorem blockRows_readBack : ∀ r ∈ blockRows, r.ReadsBack := by
  have list15 {w : Word} : listsPc (fieldAt 0 16 w) = w.getLsbD 15 := getLsbD_fieldAt 0 16 15 w
  have bit15 {mask pattern w : Word} (meets : w &&& mask = pattern) (fixed : mask.getLsbD 15 = true) :
      w.getLsbD 15 = pattern.getLsbD 15 := by
    rw [← meets, BitVec.getLsbD_and, fixed, Bool.and_true]
  simp only [blockRows, List.forall_mem_cons, List.not_mem_nil, false_imp_iff, implies_true, and_true]
  refine ⟨?ldm1, ?ldm3, ?ldm2, ?stm1, ?stm2⟩
  case ldm3 =>
    refine Row.readsBack_of_fields 0xF1AFFFFF#32 rfl (fun c w meets => ?_) fun c w cond => ?_
    · exact list15.trans (bit15 meets rfl)
    · simp only [encodeWord, cond, place_fieldAt, placeFlag_flagAt, place_regAt, place_modeAt, BitVec.or_assoc,
        ← BitVec.and_or_distrib_left]
      rfl
  case ldm2 =>
    refine Row.readsBack_of_fields 0xF18FFFFF#32 rfl (fun c w meets => ?_) fun c w cond => ?_
    · exact (congrArg Bool.not (list15.trans (bit15 meets rfl))).trans rfl
    · simp only [encodeWord, cond, place_fieldAt, place_regAt, place_modeAt, BitVec.or_assoc,
        ← BitVec.and_or_distrib_left]
      rfl
  all_goals
    refine Row.readsBack_of_others (fun _ _ => rfl) fun c w cond => ?_
    simp only [encodeWord, cond, place_fieldAt, placeFlag_flagAt, place_regAt, place_modeAt, BitVec.or_assoc,
      ← BitVec.and_or_distrib_left]
    rfl

/-- The other rows: each operand is a field, and no two of them share a bit. -/
theorem otherRows_readBack :
    ∀ r ∈ moveRows ++ arithmeticRows ++ compareRows ++ logicalRows ++ statusRows ++ multiplyRows ++ branchRows ++
      loadRows ++ storeRows ++ otherRows, r.ReadsBack := by
  simp only [moveRows, arithmeticRows, compareRows, logicalRows, statusRows, multiplyRows, branchRows, loadRows,
    storeRows, otherRows, List.cons_append, List.nil_append, List.forall_mem_cons, List.not_mem_nil, false_imp_iff,
    implies_true, and_true]
  and_intros
  all_goals
    refine Row.readsBack_of_others (fun _ _ => rfl) fun c w cond => ?_
    simp only [encodeWord, cond, place_fieldAt, placeFlag_flagAt, place_regAt, place_shiftAt,
      placeOffset8_offset8At, BitVec.or_assoc, ← BitVec.and_or_distrib_left]
    rfl

theorem table_readBack {r : Row} (h : r ∈ table) : r.ReadsBack := by
  by_cases block : r ∈ blockRows
  · exact blockRows_readBack r block
  · refine otherRows_readBack r ?_
    simp only [table, List.mem_append, block, or_false] at h ⊢
    exact h

theorem decodeWord_ok {w : Word} {i : Instr} (h : decodeWord w = .ok i) :
    ∃ c, ∃ r ∈ table, Cond.ofCode (fieldAt 28 4 w) = some c ∧ r.meets w = true ∧ i = r.build c w := by
  unfold decodeWord at h
  split at h
  · cases h
  · next c cond =>
    split at h
    · next r found =>
      cases h
      exact ⟨c, r, List.mem_of_find?_eq_some found, cond, List.find?_some (p := fun q : Row => q.meets w) found, rfl⟩
    · cases h

/-- Settles O2: the row the decoder found reads its word back. -/
theorem encodeOfDecode : Obligations.EncodeOfDecode := by
  intro w i decoded
  obtain ⟨c, r, mem, cond, meets, rfl⟩ := decodeWord_ok decoded
  exact table_readBack mem c w (Cond.code_ofCode cond) (beq_iff_eq.mp meets)

/-! ## Rows are disjoint -/

theorem Row.not_meets_of_clashes {r q : Row} (h : r.clashes q = true) (w : Word) :
    ¬ (r.meets w = true ∧ q.meets w = true) := by
  rintro ⟨hr, hq⟩
  have hr : w &&& r.mask = r.pattern := beq_iff_eq.mp hr
  have hq : w &&& q.mask = q.pattern := beq_iff_eq.mp hq
  refine bne_iff_ne.mp h ?_
  rw [← hr, ← hq]
  refine BitVec.eq_of_getLsbD_eq fun k _ => ?_
  simp only [BitVec.getLsbD_and, BitVec.getLsbD_xor]
  cases w.getLsbD k <;> cases r.mask.getLsbD k <;> cases q.mask.getLsbD k <;> simp

/-- Settles O3: of two rows, one fixes a bit to what the other forbids. -/
theorem rowsAreDisjoint : Obligations.RowsAreDisjoint :=
  fun w => table_clashes.imp fun clash => Row.not_meets_of_clashes clash w

/-! ## What a field holds is read back -/

theorem fieldAt_or (lo n : Nat) (v w : Word) : fieldAt lo n (v ||| w) = fieldAt lo n v ||| fieldAt lo n w :=
  BitVec.extractLsb'_or

theorem fieldAt_ofNat (lo n k : Nat) : fieldAt lo n (BitVec.ofNat 32 k) = (BitVec.ofNat 32 k).extractLsb' lo n := rfl

theorem fieldAt_place {lo n : Nat} (v : BitVec n) (h : lo + n ≤ 32) : fieldAt lo n (place lo v) = v :=
  BitVec.eq_of_getLsbD_eq fun i hi => by
    rw [getLsbD_fieldAt, getLsbD_place, Nat.add_sub_cancel_left]
    simp [hi, show lo + i < 32 by omega]

/-- A field another one does not meet is empty. -/
theorem fieldAt_place_other {lo n lo' m : Nat} (v : BitVec m) (h : lo + n ≤ lo' ∨ lo' + m ≤ lo) :
    fieldAt lo n (place lo' v) = 0#n :=
  BitVec.eq_of_getLsbD_eq fun i hi => by
    rw [getLsbD_fieldAt, getLsbD_place]
    by_cases below : lo' ≤ lo + i
    · simp [BitVec.getLsbD_of_ge v (lo + i - lo') (by omega)]
    · simp [below]

theorem fieldAt_placeFlag {lo : Nat} (b : Bool) (h : lo < 32) : fieldAt lo 1 (placeFlag lo b) = BitVec.ofBool b :=
  fieldAt_place _ h

theorem fieldAt_placeFlag_other {lo n lo' : Nat} (b : Bool) (h : lo + n ≤ lo' ∨ lo' + 1 ≤ lo) :
    fieldAt lo n (placeFlag lo' b) = 0#n :=
  fieldAt_place_other _ h

theorem fieldAt_one (lo : Nat) (w : Word) : fieldAt lo 1 w = BitVec.ofBool (flagAt lo w) := by
  refine BitVec.eq_of_getLsbD_eq fun i hi => ?_
  obtain rfl : i = 0 := by omega
  rw [getLsbD_fieldAt, flagAt_eq]
  simp

theorem ofBool_beq_one (b : Bool) : (BitVec.ofBool b == 1#1) = b := by
  cases b <;> rfl

theorem flagAt_eq_fieldAt (lo : Nat) (w : Word) : flagAt lo w = (fieldAt lo 1 w == 1#1) := by
  rw [fieldAt_one, ofBool_beq_one]

theorem append_nibbles (v : BitVec 8) : v.extractLsb' 4 4 ++ v.extractLsb' 0 4 = v :=
  (BitVec.extractLsb'_append_extractLsb'_eq_extractLsb' (by decide)).trans BitVec.extractLsb'_eq_self

theorem place_and_fieldMask (lo : Nat) {n : Nat} (v : BitVec n) : place lo v &&& fieldMask lo n = place lo v := by
  refine BitVec.eq_of_getLsbD_eq fun i hi => ?_
  rw [BitVec.getLsbD_and, getLsbD_place, getLsbD_fieldMask]
  by_cases inField : i - lo < n
  · cases v.getLsbD (i - lo) <;> simp [inField]
  · simp [BitVec.getLsbD_of_ge v _ (Nat.not_lt.mp inField)]

/-- A field none of whose bits is fixed is outside the mask. -/
theorem place_and_eq_zero {lo n : Nat} (v : BitVec n) {mask : Word} (h : fieldMask lo n &&& mask = 0#32) :
    place lo v &&& mask = 0#32 := by
  rw [← place_and_fieldMask, BitVec.and_assoc, h, BitVec.and_zero]

theorem placeFlag_and_eq_zero {lo : Nat} (b : Bool) {mask : Word} (h : fieldMask lo 1 &&& mask = 0#32) :
    placeFlag lo b &&& mask = 0#32 :=
  place_and_eq_zero _ h

/-- LDM (2) and LDM (3) fix one bit of their register list, bit 15 (30_encoding.md R118). -/
theorem place_list_and (list : BitVec 16) {mask : Word} (h : fieldMask 0 16 &&& mask = 0x8000#32) :
    place 0 list &&& mask = if listsPc list then 0x8000#32 else 0#32 := by
  rw [← place_and_fieldMask, BitVec.and_assoc, h]
  exact (BitVec.and_twoPow _ 15).trans (by rw [getLsbD_place]; rfl)

theorem list_or_bit15 {list : BitVec 16} (h : listsPc list = true) : 0x8000#16 ||| list = list := by
  refine BitVec.eq_of_getLsbD_eq fun i hi => ?_
  have bit : (0x8000#16).getLsbD i = decide (15 = i) := by
    rw [show 0x8000#16 = BitVec.twoPow 16 15 from rfl, BitVec.getLsbD_twoPow]
    simp
  rw [BitVec.getLsbD_or, bit]
  by_cases top : 15 = i
  · subst top
    simpa [listsPc] using h
  · simp [top]

/-! ## A well-formed instruction (30_encoding.md R101) -/

/-- The row has the instruction's fixed bits and reads the instruction from its encoding. -/
def Row.Reads (r : Row) (i : Instr) : Prop :=
  r.build (condOf i) (encodeWord i) = i ∧ encodeWord i &&& r.mask = r.pattern

theorem exists_mem_table {rows : List Row} {i : Instr} (sub : ∀ r ∈ rows, r ∈ table) (h : ∃ r ∈ rows, r.Reads i) :
    ∃ r ∈ table, r.Reads i :=
  h.imp fun _ => And.imp_left fun mem => sub _ mem

theorem exists_row (i : Instr) (wf : WellFormed i = true) : ∃ r ∈ table, r.Reads i := by
  cases i
  case' ldm1 | ldm3 | ldm2 | stm1 | stm2 =>
    refine exists_mem_table (rows := blockRows) (fun r h => by simp [table, h]) ?_
    simp only [blockRows, List.exists_mem_cons_iff]
  case' movImm | movShiftImm | movShiftReg | mvnImm | mvnShiftImm | mvnShiftReg =>
    refine exists_mem_table (rows := moveRows) (fun r h => by simp [table, h]) ?_
    simp only [moveRows, List.exists_mem_cons_iff]
  case' addImm | addShiftImm | addShiftReg | adcImm | adcShiftImm | adcShiftReg | subImm | subShiftImm |
      subShiftReg | sbcImm | sbcShiftImm | sbcShiftReg | rsbImm | rsbShiftImm | rsbShiftReg | rscImm | rscShiftImm
      | rscShiftReg =>
    refine exists_mem_table (rows := arithmeticRows) (fun r h => by simp [table, h]) ?_
    simp only [arithmeticRows, List.exists_mem_cons_iff]
  case' cmpImm | cmpShiftImm | cmpShiftReg | cmnImm | cmnShiftImm | cmnShiftReg | tstImm | tstShiftImm |
      tstShiftReg | teqImm | teqShiftImm | teqShiftReg =>
    refine exists_mem_table (rows := compareRows) (fun r h => by simp [table, h]) ?_
    simp only [compareRows, List.exists_mem_cons_iff]
  case' andImm | andShiftImm | andShiftReg | eorImm | eorShiftImm | eorShiftReg | orrImm | orrShiftImm |
      orrShiftReg | bicImm | bicShiftImm | bicShiftReg =>
    refine exists_mem_table (rows := logicalRows) (fun r h => by simp [table, h]) ?_
    simp only [logicalRows, List.exists_mem_cons_iff]
  case' mrsCpsr | mrsSpsr | msrCpsrReg | msrSpsrReg | msrCpsrImm | msrSpsrImm =>
    refine exists_mem_table (rows := statusRows) (fun r h => by simp [table, h]) ?_
    simp only [statusRows, List.exists_mem_cons_iff]
  case' mul | mla | umull | umlal | smull | smlal =>
    refine exists_mem_table (rows := multiplyRows) (fun r h => by simp [table, h]) ?_
    simp only [multiplyRows, List.exists_mem_cons_iff]
  case' b | bl | bx =>
    refine exists_mem_table (rows := branchRows) (fun r h => by simp [table, h]) ?_
    simp only [branchRows, List.exists_mem_cons_iff]
  case' ldrImm | ldrImmPost | ldrReg | ldrRegPost | ldrtImm | ldrtReg | ldrbImm | ldrbImmPost | ldrbReg |
      ldrbRegPost | ldrbtImm | ldrbtReg | ldrsbImm | ldrsbImmPost | ldrsbReg | ldrsbRegPost | ldrhImm |
      ldrhImmPost | ldrhReg | ldrhRegPost | ldrshImm | ldrshImmPost | ldrshReg | ldrshRegPost =>
    refine exists_mem_table (rows := loadRows) (fun r h => by simp [table, h]) ?_
    simp only [loadRows, List.exists_mem_cons_iff]
  case' strImm | strImmPost | strReg | strRegPost | strtImm | strtReg | strbImm | strbImmPost | strbReg |
      strbRegPost | strbtImm | strbtReg | strhImm | strhImmPost | strhReg | strhRegPost =>
    refine exists_mem_table (rows := storeRows) (fun r h => by simp [table, h]) ?_
    simp only [storeRows, List.exists_mem_cons_iff]
  case' swp | swpb | swi | undefinedSpace | coprocTransfer | coprocOperation =>
    refine exists_mem_table (rows := otherRows) (fun r h => by simp [table, h]) ?_
    simp only [otherRows, List.exists_mem_cons_iff]
  all_goals
    simp only [WellFormed, Bool.not_eq_true'] at wf
    simp only [Row.Reads, condOf, reduceCtorEq, false_and, false_or, or_false, List.not_mem_nil, exists_false]
    simp (disch := decide) only [encodeWord, flagAt_eq_fieldAt, regAt, shiftAt, modeAt, offset8At,
      placeOffset8, append_nibbles, fieldAt_or, fieldAt_place, fieldAt_place_other, fieldAt_placeFlag,
      fieldAt_placeFlag_other, fieldAt_ofNat, BitVec.reduceExtractLsb', BitVec.or_zero, BitVec.zero_or,
      ofBool_beq_one, Reg.ofCode_code, Shift.ofCode_code, BlockMode.ofCode_code,
      BitVec.and_or_distrib_right, place_and_eq_zero, placeFlag_and_eq_zero, place_list_and, wf, if_true,
      Bool.false_eq_true, if_false, BitVec.reduceAnd, BitVec.reduceOr, and_self]
  case ldm3 => exact ⟨by rw [list_or_bit15 wf], trivial⟩

theorem fieldAt_cond (i : Instr) : fieldAt 28 4 (encodeWord i) = (condOf i).code := by
  cases i <;>
    simp (disch := decide) only [encodeWord, condOf, placeOffset8, fieldAt_or, fieldAt_place, fieldAt_place_other,
      fieldAt_placeFlag_other, fieldAt_ofNat, BitVec.reduceExtractLsb', BitVec.or_zero, BitVec.zero_or]

/-- Rows are disjoint, so the decoder finds the row a word meets (30_encoding.md R101 step 3). -/
theorem find_table {w : Word} {r : Row} (mem : r ∈ table) (meets : r.meets w = true) :
    table.find? (fun q => q.meets w) = some r := by
  obtain ⟨q, found⟩ : ∃ q, table.find? (fun q => q.meets w) = some q :=
    Option.isSome_iff_exists.mp (List.find?_isSome.mpr ⟨r, mem, meets⟩)
  have meets' : q.meets w = true := List.find?_some (p := fun q : Row => q.meets w) found
  have : Std.Symm fun a b : Row => ¬ (a.meets w = true ∧ b.meets w = true) := ⟨fun _ _ h => mt And.symm h⟩
  by_contra other
  have ne : r ≠ q := by
    rintro rfl
    exact other found
  exact (rowsAreDisjoint w).forall mem (List.mem_of_find?_eq_some found) ne ⟨meets, meets'⟩

/-- Settles O1: of the rows, only the one that reads the instruction back is met by its encoding. -/
theorem decodeOfEncode : Obligations.DecodeOfEncode := by
  intro i wf
  obtain ⟨r, mem, reads, meets⟩ := exists_row i wf
  have cond : Cond.ofCode (fieldAt 28 4 (encodeWord i)) = some (condOf i) := by
    rw [fieldAt_cond, Cond.ofCode_code]
  rw [encode, decode_bytesOfWord, decodeWord, cond]
  simp only [find_table mem (beq_iff_eq.mpr meets), reads]

/-- Settles O4: the decoder, on each of the sixteen words. -/
theorem decodeOfSampleWords : Obligations.DecodeOfSampleWords := by
  refine ⟨?_, ?_, ?_, ?_, ?_, ?_, ?_, ?_, ?_, ?_, ?_, ?_, ?_, ?_, ?_, ?_⟩ <;> decide

end Sys2Proof
end

section
/-! Conditions and data processing into a general register or the flags: the carry and the overflow of each operation as
the rules state them, and the statements on the results, the flags and the conditions after a compare
(40_conditions_operand2.md R140 to R142, R157 to R162; 42_arithmetic.md R196). -/

namespace Sys2Proof.Machine

open Sys2Proof.Safety

/-! ## Conditions (40_conditions_operand2.md R140 to R142) -/

/-- Settles O13: the table, row by row. -/
theorem conditionTable : Obligations.ConditionTable := by
  intro s
  simp only [Passes, conditionPassed, Bool.not_eq_true', Bool.and_eq_true, Bool.or_eq_true, beq_iff_eq, bne_iff_ne,
    ne_eq, and_self, iff_self]

/-- Every instruction looks at its condition first. -/
theorem exec_eq_whenPassed (i : Instr) (s : State) : ∃ body, exec i s = whenPassed (condOf i) s body := by
  cases i <;> exact ⟨_, rfl⟩

theorem advance_eq_ite (s : State) :
    advance s = if s.pc.toNat + 4 < 2 ^ 32 then .next { s with pc := s.pc + 4#32 } else .refused .pcWrap := by
  split_ifs with room
  · exact advance_of_hasNext room
  · exact advance_of_not_hasNext room

/-- Settles O12: a failed condition leaves the advance of the pc; the fetch before it may abort. -/
theorem failedConditionOnlyAdvances : Obligations.FailedConditionOnlyAdvances := by
  refine ⟨fun i s fails => ?_, fun s reaches aborts hasNext => ?_⟩
  · obtain ⟨body, run⟩ := exec_eq_whenPassed i s
    rw [run, whenPassed_of_not_passes fails, advance_eq_ite]
  · rw [step_of_fetch_aborts reaches aborts]
    exact takeException_of_room (s := consumeInput s) hasNext

/-! ## The overflow of the adder, as a range (42_arithmetic.md R196) -/

theorem toInt_ofInt_ne_iff (x : Int) : x ≠ (BitVec.ofInt 32 x).toInt ↔ x < -2 ^ 31 ∨ 2 ^ 31 ≤ x := by
  have lower := BitVec.le_toInt (BitVec.ofInt 32 x)
  have upper := BitVec.toInt_lt (x := BitVec.ofInt 32 x)
  constructor
  · intro ne
    by_contra fits
    exact ne (BitVec.toInt_ofInt_eq_self (by decide) (by omega) (by omega)).symm
  · omega

theorem addWithCarry_value_eq_ofInt (a b : Word) (cin : Bool) :
    (addWithCarry a b cin).value = BitVec.ofInt 32 (a.toInt + b.toInt + cin.toNat) := by
  rw [addWithCarry_value]
  simp only [BitVec.ofInt_add, BitVec.ofInt_toInt, BitVec.ofInt_natCast, BitVec.ofNat_toNat, BitVec.setWidth_eq]

/-- The adder overflows exactly where the exact signed sum leaves 32 bits. -/
theorem addWithCarry_v_iff_range {a b : Word} {cin : Bool} :
    (addWithCarry a b cin).v = true ↔
      a.toInt + b.toInt + cin.toNat < -2 ^ 31 ∨ 2 ^ 31 ≤ a.toInt + b.toInt + cin.toNat := by
  rw [addWithCarry_v_iff, addWithCarry_value_eq_ofInt, toInt_ofInt_ne_iff]

theorem addWithCarry_not_v_iff_range {a b : Word} {c : Bool} :
    (addWithCarry a (~~~b) c).v = true ↔
      a.toInt - b.toInt - (1 - c.toNat) < -2 ^ 31 ∨ 2 ^ 31 ≤ a.toInt - b.toInt - (1 - c.toNat) := by
  rw [addWithCarry_v_iff_range, toInt_complement]
  omega

/-! ## The flags of each operation (40_conditions_operand2.md R160, R161) -/

/-- The carry of an arithmetic operation: of the sum, or the complement of the borrow. -/
theorem alu_c_of_isArithmetic {op : AluOp} (h : isArithmetic op = true) (a b : Word) (sco c v : Bool) :
    (alu op a b sco c v).c = decide ((if isAddition op then 2 ^ 32 else 0) ≤ exactUnsigned op a b c) := by
  rw [Bool.eq_iff_iff, decide_eq_true_iff]
  have carryIn := c.toNat_le
  cases op with
  | add | cmn | adc =>
    refine addWithCarry_c_iff.trans ?_
    simp only [exactUnsigned, isAddition, Bool.toNat_false]
    simp
    omega
  | sub | cmp | rsb =>
    refine addWithCarry_not_c_iff.trans ?_
    simp [exactUnsigned, isAddition]
  | sbc | rsc =>
    refine addWithCarry_not_c_iff.trans ?_
    simp [exactUnsigned, isAddition]
    omega
  | _ => cases h

theorem alu_v_of_isArithmetic {op : AluOp} (h : isArithmetic op = true) (a b : Word) (sco c v : Bool) :
    (alu op a b sco c v).v = decide (exactSigned op a b c < -2 ^ 31 ∨ 2 ^ 31 ≤ exactSigned op a b c) := by
  rw [Bool.eq_iff_iff, decide_eq_true_iff]
  cases op with
  | add | cmn => simpa [alu, exactSigned] using addWithCarry_v_iff_range (a := a) (b := b) (cin := false)
  | adc => exact addWithCarry_v_iff_range
  | sub | cmp => simpa [alu, exactSigned] using addWithCarry_not_v_iff_range (a := a) (b := b) (c := true)
  | rsb => simpa [alu, exactSigned] using addWithCarry_not_v_iff_range (a := b) (b := a) (c := true)
  | sbc => exact addWithCarry_not_v_iff_range
  | rsc => exact addWithCarry_not_v_iff_range
  | _ => cases h

/-- A logical operation takes C from the shifter and leaves V. -/
theorem alu_flags_of_not_isArithmetic {op : AluOp} (h : isArithmetic op = false) (a b : Word) (sco c v : Bool) :
    (alu op a b sco c v).c = sco ∧ (alu op a b sco c v).v = v := by
  cases op with
  | and | eor | tst | teq | orr | mov | bic | mvn => exact ⟨rfl, rfl⟩
  | _ => cases h

/-- The flags the model sets are the ones the rules give. -/
theorem setFlags_alu (op : AluOp) (a b : Word) (sco : Bool) (s : State) :
    (setFlags (alu op a b sco s.cpsr.c s.cpsr.v) s).cpsr = dpFlags op a b sco s.cpsr := by
  rw [setFlags_cpsr, alu_value, dpFlags, msb_eq_getLsbD_31]
  cases h : isArithmetic op with
  | true => rw [alu_c_of_isArithmetic h, alu_v_of_isArithmetic h]; rfl
  | false =>
    obtain ⟨hc, hv⟩ := alu_flags_of_not_isArithmetic h a b sco s.cpsr.c s.cpsr.v
    rw [hc, hv]
    rfl

/-! ## The results (40_conditions_operand2.md R157, R162) -/

section Results

variable {i : Instr} {f : DpForm} {s : State} (form : dpForm? i = some f) (passes : Passes f.cond s)
  (allowed : f.o.forbidsPc (f.rd.toList ++ f.rn.toList) = false)
include form passes allowed

theorem exec_of_dpForm_allowed :
    exec i s = finishDataProcessing f.sf f.rd (alu f.op (firstOperand f.rn s) (shifterOperand f.o s).1
      (shifterOperand f.o s).2 s.cpsr.c s.cpsr.v) s := by
  rw [exec_of_dpForm form, dataProcessing, whenPassed_of_passes passes, if_neg (by simp [allowed])]

/-- Into a general register, arithmetic or logical. -/
theorem exec_of_dpForm_r {n : Fin 15} (hrd : f.rd = some (.r n)) (hasNext : HasNext s) :
    exec i s = .next { s with
      regs := s.regs.set (physReg s.cpsr.m n) (dpValue f.op (firstOperand f.rn s) (shifterOperand f.o s).1 s.cpsr.c)
      cpsr := if f.sf then dpFlags f.op (firstOperand f.rn s) (shifterOperand f.o s).1 (shifterOperand f.o s).2 s.cpsr
        else s.cpsr
      pc := s.pc + 4#32 } := by
  rw [exec_of_dpForm_allowed form passes allowed, hrd, finishDataProcessing, alu_value, ← setFlags_alu]
  cases f.sf <;> exact advance_of_hasNext hasNext

theorem exec_of_dpForm_none (hrd : f.rd = none) (hasNext : HasNext s) :
    exec i s = .next { s with
      cpsr := dpFlags f.op (firstOperand f.rn s) (shifterOperand f.o s).1 (shifterOperand f.o s).2 s.cpsr
      pc := s.pc + 4#32 } := by
  rw [exec_of_dpForm_allowed form passes allowed, hrd, finishDataProcessing, ← setFlags_alu]
  exact advance_of_hasNext hasNext

end Results

/-- Settles O19: the result and the flags of the skeleton are those of the rules. -/
theorem arithmeticWritesRegister : Obligations.ArithmeticWritesRegister :=
  fun _ _ _ _ form _ hrd passes allowed hasNext => exec_of_dpForm_r form passes allowed hrd hasNext

/-- Settles O20: as O19; that C comes from the shifter and V stays is in `dpFlags`. -/
theorem logicalAndMoveWriteRegister : Obligations.LogicalAndMoveWriteRegister :=
  fun _ _ _ _ form _ hrd passes allowed hasNext => exec_of_dpForm_r form passes allowed hrd hasNext

/-- Settles O21: without `Rd` the flags and the pc are all that is written. -/
theorem compareSetsFlags : Obligations.CompareSetsFlags := by
  intro i f s form hrd passes allowed hasNext
  exact exec_of_dpForm_none form passes (by rwa [hrd]) hrd hasNext

/-! ## The conditions after CMP (44_compare_logical.md R230) -/

theorem rd_of_cmp {i : Instr} {f : DpForm} (form : dpForm? i = some f) (cmp : f.op = .cmp) : f.rd = none := by
  cases i <;> simp only [dpForm?, Option.some.injEq, reduceCtorEq] at form <;> subst form <;> simp_all

/-- A compare that completes leaves the flags of the rules. -/
theorem cpsr_of_cmp_next {i : Instr} {f : DpForm} {s t : State} (form : dpForm? i = some f) (cmp : f.op = .cmp)
    (passes : Passes f.cond s) (h : exec i s = .next t) :
    t.cpsr = dpFlags .cmp (firstOperand f.rn s) (shifterOperand f.o s).1 (shifterOperand f.o s).2 s.cpsr := by
  rw [exec_of_dpForm form] at h
  obtain ⟨fails, -, -⟩ | ⟨-, -, finish⟩ := dataProcessing_next h
  · exact absurd passes fails
  rw [rd_of_cmp form cmp, cmp] at finish
  obtain ⟨-, rfl⟩ := advance_next finish
  exact setFlags_alu _ _ _ _ _

/-- The word of a difference is the exact signed difference, or off by `2 ^ 32` where that leaves 32 bits. -/
theorem toInt_sub_cases (a b : Word) : ∃ k : Int, (a - b).toInt = a.toInt - b.toInt + 2 ^ 32 * k := by
  rw [BitVec.toInt_sub]
  refine ⟨-(a.toInt - b.toInt).bdiv (2 ^ 32), ?_⟩
  rw [Int.bmod_eq_self_sub_mul_bdiv]
  push_cast
  omega

/-- The flags after CMP: N by the sign of the difference, Z by equality, C by the unsigned order, V by the range. -/
theorem dpFlags_cmp (a b : Word) (sco : Bool) (p : Psr Mode) :
    ((dpFlags .cmp a b sco p).n = true ↔ (a - b).toInt < 0) ∧ ((dpFlags .cmp a b sco p).z = true ↔ a = b) ∧
    ((dpFlags .cmp a b sco p).c = true ↔ b.toNat ≤ a.toNat) ∧
    ((dpFlags .cmp a b sco p).v = true ↔ a.toInt - b.toInt < -2 ^ 31 ∨ 2 ^ 31 ≤ a.toInt - b.toInt) := by
  have value : dpValue .cmp a b p.c = a - b := dpValue_sub a b p.c
  refine ⟨?_, ?_, ?_, ?_⟩
  · rw [dpFlags, value, ← msb_eq_getLsbD_31]
    simp [BitVec.msb_eq_toInt]
  · rw [dpFlags, value]
    simp [BitVec.sub_eq_iff_eq_add]
  · simp [dpFlags, isArithmetic, isAddition, exactUnsigned]
  · exact decide_eq_true_iff.trans (by simp [exactSigned])

/-- Settles O14: each condition through the table, each flag through what CMP leaves in it. -/
theorem conditionsAfterCompare : Obligations.ConditionsAfterCompare := by
  intro i f s t form cmp passes h a b
  have flags := cpsr_of_cmp_next form cmp passes h
  obtain ⟨hn, hz, hc, hv⟩ := dpFlags_cmp a b (shifterOperand f.o s).2 s.cpsr
  rw [← flags] at hn hz hc hv
  obtain ⟨k, wrapped⟩ := toInt_sub_cases a b
  have lower := BitVec.le_toInt (a - b)
  have upper := BitVec.toInt_lt (x := a - b)
  have lowerA := BitVec.le_toInt a
  have upperA := BitVec.toInt_lt (x := a)
  have lowerB := BitVec.le_toInt b
  have upperB := BitVec.toInt_lt (x := b)
  have signed : t.cpsr.n = t.cpsr.v ↔ b.toInt ≤ a.toInt := by
    rw [Bool.eq_iff_iff, hn, hv]
    omega
  have equalNat : a = b ↔ a.toNat = b.toNat := BitVec.toNat_inj.symm
  have equalInt : a = b ↔ a.toInt = b.toInt := BitVec.toInt_inj.symm
  obtain ⟨eq, ne, cs, cc, mi, pl, vs, vc, hi, ls, ge, lt, gt, le, -⟩ := conditionTable t
  rw [eq, ne, cs, cc, mi, pl, vs, vc, hi, ls, ge, lt, gt, le]
  simp only [ne_eq, ← Bool.not_eq_true, signed, hn, hz, hc, hv]
  refine ⟨trivial, trivial, trivial, by omega, ?_, ?_, trivial, by omega, ?_, ?_, trivial, by omega, trivial, by omega⟩
  · rw [equalNat]; omega
  · rw [equalNat]; omega
  · rw [equalInt]; omega
  · rw [equalInt]; omega

end Sys2Proof.Machine
end

section
/-! The step before and after the fetch, what reset fixes, MRS and the refusals of the status instructions, and the
branches (60_exceptions.md R371; 70_reset_and_hazards.md R410; 41_move_psr.md R172 to R175; 45_branch.md R250 to
R252). -/

namespace Sys2Proof.Machine

open Sys2Proof.Safety

/-! ## The step (60_exceptions.md R371; 00_scope.md R18) -/

/-- Settles O7: the instruction runs from the state whose sample is taken off and whose hazard bit is clear. -/
theorem stepRunsDecodedInstruction : Obligations.StepRunsDecodedInstruction := by
  intro s w i fetches decoded free
  have allowed : hazardRefuses i s = false := by
    rw [hazardRefuses, Bool.and_eq_false_imp]
    exact free
  rw [step_of_decodeWord_ok fetches decoded, allowed]
  rfl

/-- Settles O8: the two checks that stand between the interrupts and the fetch. -/
theorem stepEndsOrRefusesBeforeFetch : Obligations.StepEndsOrRefusesBeforeFetch := by
  refine fun s noInterrupt => ⟨fun atEnd => ?_, fun notEnd thumb => ?_⟩
  · simp [step, boundary, noInterrupt, atEnd]
  · simp [step, boundary, noInterrupt, notEnd, thumb]

/-! ## The status register as a word (10_state.md R39, R45) -/

/-- The reserved bits of a status register read as 0. -/
theorem getLsbD_toWord_reserved (p : Spsr) {k : Nat} (low : 8 ≤ k) (high : k < 28) : p.toWord.getLsbD k = false := by
  have below : ¬ k < 5 ∧ ¬ k - 5 < 1 ∧ ¬ k - 5 - 1 < 1 ∧ ¬ k - 5 - 1 - 1 < 1 ∧ k - 5 - 1 - 1 - 1 < 20 := by omega
  simp only [Psr.toWord, BitVec.getLsbD_append, below]
  exact BitVec.getLsbD_zero

theorem isPsrWord_toWord (p : Spsr) : IsPsrWord p p.toWord := by
  have fields := Psr.ofWord_toWord p
  rw [Psr.ofWord, Psr.mk.injEq] at fields
  obtain ⟨n, z, c, v, i, f, t, m⟩ := fields
  exact ⟨n, z, c, v, fun _ => getLsbD_toWord_reserved p, i, f, t, m⟩

/-- Settles O57: what `reset` and `resetEntry` write; the reserved bits are those of any status register. -/
theorem resetFixesModeMasksAndPc : Obligations.ResetFixesModeMasksAndPc :=
  ⟨⟨rfl, rfl, rfl, rfl, rfl, fun _ => getLsbD_toWord_reserved _⟩, fun _ => ⟨rfl, rfl, rfl, rfl, rfl, rfl⟩⟩

/-! ## MRS and MSR (41_move_psr.md R172 to R175) -/

theorem exec_mrsCpsr {c : Cond} {s : State} (passes : Passes c s) (n : Fin 15) :
    exec (.mrsCpsr c (.r n)) s = advance (writeGeneral s n s.cpsr.save.toWord) :=
  whenPassed_of_passes passes

theorem exec_mrsSpsr {c : Cond} {s : State} (passes : Passes c s) {e : ExcMode} (mode : s.cpsr.m = .exc e)
    (n : Fin 15) : exec (.mrsSpsr c (.r n)) s = advance (writeGeneral s n (s.spsr.get e).toWord) := by
  refine (whenPassed_of_passes passes).trans ?_
  simp only [mode]

theorem exec_mrsSpsr_of_not_hasSpsr {c : Cond} {s : State} (passes : Passes c s) (none : ¬ HasSpsr s.cpsr.m)
    (n : Fin 15) : exec (.mrsSpsr c (.r n)) s = .refused .noSpsr := by
  refine (whenPassed_of_passes passes).trans ?_
  split
  · next e mode => exact absurd (mode ▸ hasSpsr_exc e) none
  · rfl

/-- Settles O24: the word is the status register's, the rest the advance of the pc. -/
theorem mrsReadsStatus : Obligations.MrsReadsStatus := by
  intro c n s passes hasNext
  refine ⟨⟨_, isPsrWord_toWord _, ?_⟩, fun e mode => ⟨_, isPsrWord_toWord _, ?_⟩⟩
  · rw [exec_mrsCpsr passes]
    exact advance_of_hasNext hasNext
  · rw [exec_mrsSpsr passes mode]
    exact advance_of_hasNext hasNext

/-- Settles O26: R15 is refused before anything is looked at, the missing SPSR next. -/
theorem statusAccessRefusals : Obligations.StatusAccessRefusals := fun _ _ _ passes =>
  ⟨whenPassed_of_passes passes, whenPassed_of_passes passes, whenPassed_of_passes passes, whenPassed_of_passes passes,
    fun n none => exec_mrsSpsr_of_not_hasSpsr passes none n⟩

/-! ## Branches (45_branch.md R250 to R252) -/

/-- The target of a branch is `pc + 8` plus four times the signed offset, modulo 2^32. -/
theorem branchTarget_eq_ofInt (imm : BitVec 24) (s : State) :
    branchTarget imm s = BitVec.ofInt 32 (s.pc.toNat + 8 + 4 * imm.toInt) := by
  have offset : imm.signExtend 32 <<< 2 = BitVec.ofInt 32 (4 * imm.toInt) := by
    rw [BitVec.shiftLeft_eq_mul_twoPow, BitVec.ofInt_mul, BitVec.mul_comm]
    rfl
  rw [branchTarget, offset, BitVec.ofInt_add, BitVec.ofInt_add]
  simp

theorem exec_b {c : Cond} {s : State} (passes : Passes c s) (imm : BitVec 24) :
    exec (.b c imm) s = .next { s with pc := branchTarget imm s } :=
  whenPassed_of_passes passes

theorem exec_bl_of_hasNext {c : Cond} {s : State} (passes : Passes c s) (imm : BitVec 24) (hasNext : HasNext s) :
    exec (.bl c imm) s = .next { writeGeneral s 14 (s.pc + 4#32) with pc := branchTarget imm s } := by
  refine (whenPassed_of_passes passes).trans ?_
  rw [pcPlus_eq_some.mpr ⟨hasNext, rfl⟩]

theorem exec_bl_of_not_hasNext {c : Cond} {s : State} (passes : Passes c s) (imm : BitVec 24) (top : ¬ HasNext s) :
    exec (.bl c imm) s = .refused .pcWrap := by
  refine (whenPassed_of_passes passes).trans ?_
  rw [show pcPlus s 4 = none from if_neg top]

/-- Settles O31: the model's target is the exact one modulo 2^32. -/
theorem branchAndBranchWithLink : Obligations.BranchAndBranchWithLink := by
  intro c imm s passes
  rw [← branchTarget_eq_ofInt]
  exact ⟨exec_b passes imm, exec_bl_of_hasNext passes imm, exec_bl_of_not_hasNext passes imm,
    fun aligned => wordAligned_add_eight_add_shift aligned⟩

/-- Settles O32: bit 0 is looked at before the jump looks at both low bits. -/
theorem branchExchange : Obligations.BranchExchange := by
  intro c rn s passes v
  have run : exec (.bx c rn) s =
      if v.getLsbD 0 then .refused .thumbState else branchTo v { s with cpsr := { s.cpsr with t := false } } :=
    whenPassed_of_passes passes
  have bit (k : Nat) (hk : k < 2) : v.getLsbD k = (v.extractLsb' 0 2).getLsbD k := by simp [hk]
  rw [run]
  refine ⟨fun aligned => ?_, fun thumb => if_pos thumb, fun arm odd => ?_⟩
  · rw [bit 0 (by decide), aligned]
    exact branchTo_of_aligned _ aligned
  · rw [arm, if_neg Bool.false_ne_true]
    refine branchTo_of_misaligned _ fun aligned => ?_
    rw [bit 1 (by decide), aligned] at odd
    cases odd

end Sys2Proof.Machine
end

section
/-! The multiplies: the registers and the flags they leave, for exact products read as unsigned or signed, and the
operands they refuse (43_multiply.md R210 to R218). -/

namespace Sys2Proof.Machine

open Sys2Proof.Safety

/-! ## MUL and MLA (43_multiply.md R210, R211, R217) -/

/-- The end of a 32-bit multiply: C is a free bit, and only `S` draws one. -/
theorem finishMul_of_hasNext (sf : Bool) (d : Fin 15) (r : Word) {s : State} (hasNext : HasNext s) :
    ∃ bit draws, (sf = false → draws = s.draws) ∧ finishMul sf d r s = .next { s with
      regs := s.regs.set (physReg s.cpsr.m d) r
      cpsr := if sf then { s.cpsr with n := r.getLsbD 31, z := decide (r = 0#32), c := bit } else s.cpsr
      pc := s.pc + 4#32
      draws := draws } := by
  cases sf with
  | false => exact ⟨false, s.draws, fun _ => rfl, advance_of_hasNext hasNext⟩
  | true =>
    refine ⟨freeBit s 0, s.draws + 1, Bool.noConfusion, ?_⟩
    refine (advance_of_hasNext (s := writeGeneral (setMulFlags r s) d r) hasNext).trans ?_
    simp [setMulFlags, writeGeneral, msb_eq_getLsbD_31, Bool.beq_eq_decide_eq]

theorem ofNat_toNat_mul (a b : Word) : BitVec.ofNat 32 (a.toNat * b.toNat) = a * b := by
  simp [BitVec.ofNat_mul]

/-- Settles O28: the product of words is that of their values, modulo 2^32. -/
theorem multiplyWritesRegister : Obligations.MultiplyWritesRegister := by
  intro c sf d m k n s distinct passes hasNext after product
  have mul : exec (.mul c sf (.r d) (.r m) (.r k)) s = finishMul sf d (readGeneral s m * readGeneral s k) s :=
    (whenPassed_of_passes passes).trans (if_neg distinct)
  have mla : exec (.mla c sf (.r d) (.r m) (.r k) (.r n)) s =
      finishMul sf d (readGeneral s m * readGeneral s k + readGeneral s n) s :=
    (whenPassed_of_passes passes).trans (if_neg distinct)
  rw [mul, mla, BitVec.ofNat_add, BitVec.ofNat_toNat, BitVec.setWidth_eq, ofNat_toNat_mul]
  exact ⟨finishMul_of_hasNext sf d _ hasNext, finishMul_of_hasNext sf d _ hasNext⟩

/-! ## The long multiplies (43_multiply.md R212 to R215, R217, R218) -/

/-- The end of a long multiply: C and V are free bits, and only `S` draws them. -/
theorem finishMulLong_of_hasNext (sf : Bool) (lo hi : Fin 15) (r : BitVec 64) {s : State} (hasNext : HasNext s) :
    ∃ (bitC bitV : Bool) (draws : Nat), (sf = false → draws = s.draws) ∧ finishMulLong sf lo hi r s = .next { s with
      regs := (s.regs.set (physReg s.cpsr.m hi) (r.extractLsb' 32 32)).set (physReg s.cpsr.m lo) (r.extractLsb' 0 32)
      cpsr := if sf then { s.cpsr with n := r.getLsbD 63, z := decide (r = 0#64), c := bitC, v := bitV } else s.cpsr
      pc := s.pc + 4#32
      draws := draws } := by
  cases sf with
  | false => exact ⟨false, false, s.draws, fun _ => rfl, advance_of_hasNext hasNext⟩
  | true =>
    refine ⟨freeBit s 0, freeBit s 1, s.draws + 2, Bool.noConfusion, ?_⟩
    refine (advance_of_hasNext (s := writeGeneral (writeGeneral (setMulLongFlags r s) hi (r.extractLsb' 32 32)) lo
      (r.extractLsb' 0 32)) hasNext).trans ?_
    simp [setMulLongFlags, writeGeneral, BitVec.msb_eq_getLsbD_last, Bool.beq_eq_decide_eq]

section Skeleton

variable (c : Cond) (sf : Bool) (lo hi rm rs : Reg) (s : State)

theorem exec_umull : exec (.umull c sf lo hi rm rs) s = mulLong c lo hi rm rs s fun l h a b =>
    finishMulLong sf l h (unsignedProduct a b) s := rfl

theorem exec_umlal : exec (.umlal c sf lo hi rm rs) s = mulLong c lo hi rm rs s fun l h a b =>
    finishMulLong sf l h (unsignedProduct a b + accumulator l h s) s := rfl

theorem exec_smull : exec (.smull c sf lo hi rm rs) s = mulLong c lo hi rm rs s fun l h a b =>
    finishMulLong sf l h (signedProduct a b) s := rfl

theorem exec_smlal : exec (.smlal c sf lo hi rm rs) s = mulLong c lo hi rm rs s fun l h a b =>
    finishMulLong sf l h (signedProduct a b + accumulator l h s) s := rfl

end Skeleton

theorem unsignedProduct_eq_ofInt (a b : Word) : unsignedProduct a b = BitVec.ofInt 64 (a.toNat * b.toNat) := by
  rw [unsignedProduct, ← Nat.cast_mul, BitVec.ofInt_natCast]

/-- The pair `RdHi:RdLo` as a number. -/
theorem accumulator_eq_ofInt (lo hi : Fin 15) (s : State) :
    accumulator lo hi s = BitVec.ofInt 64 ((readGeneral s hi).toNat * 2 ^ 32 + (readGeneral s lo).toNat) := by
  refine BitVec.eq_of_toNat_eq ?_
  have low := (readGeneral s lo).isLt
  have high := (readGeneral s hi).isLt
  rw [accumulator, BitVec.toNat_append, ← Nat.shiftLeft_add_eq_or_of_lt low, Nat.shiftLeft_eq]
  norm_cast
  rw [BitVec.ofInt_natCast, BitVec.toNat_ofNat]
  omega

/-- Three different general registers pass the restrictions of the long multiplies. -/
theorem mulLong_of_distinct {c : Cond} {lo hi m k : Fin 15} {s : State} (passes : Passes c s) (hiLo : hi ≠ lo)
    (hiM : hi ≠ m) (loM : lo ≠ m) (body : Fin 15 → Fin 15 → Word → Word → Result) :
    mulLong c (.r lo) (.r hi) (.r m) (.r k) s body = body lo hi (readGeneral s m) (readGeneral s k) :=
  (whenPassed_of_passes passes).trans (if_neg (by simp [hiLo, hiM, loM]))

/-- Settles O29: each product and the accumulator are exact values modulo 2^64. -/
theorem longMultiplyWritesPair : Obligations.LongMultiplyWritesPair := by
  intro c sf lo hi m k s hiLo hiM loM passes hasNext unsigned signed acc ends
  have ends_of {i : Instr} {exact : Int} (run : exec i s = finishMulLong sf lo hi (BitVec.ofInt 64 exact) s) :
      ends i exact := by
    dsimp only [ends]
    rw [run]
    exact finishMulLong_of_hasNext sf lo hi _ hasNext
  have unfolded := mulLong_of_distinct (k := k) passes hiLo hiM loM
  refine ⟨ends_of ?_, ends_of ?_, ends_of ?_, ends_of ?_⟩
  · rw [exec_umull, unfolded, unsignedProduct_eq_ofInt]
  · rw [exec_umlal, unfolded, BitVec.ofInt_add, unsignedProduct_eq_ofInt, accumulator_eq_ofInt]
  · rw [exec_smull, unfolded, signedProduct]
  · rw [exec_smlal, unfolded, BitVec.ofInt_add, signedProduct, accumulator_eq_ofInt]

/-! ## The operands refused (43_multiply.md R216) -/

theorem exec_mul_of_pc {c : Cond} {s : State} {rd rm rs : Reg} (sf : Bool) (passes : Passes c s)
    (named : rd = .pc ∨ rm = .pc ∨ rs = .pc) : exec (.mul c sf rd rm rs) s = .refused .r15Operand := by
  refine (whenPassed_of_passes passes).trans ?_
  split
  · simp at named
  · rfl

theorem exec_mla_of_pc {c : Cond} {s : State} {rd rm rs rn : Reg} (sf : Bool) (passes : Passes c s)
    (named : rd = .pc ∨ rm = .pc ∨ rs = .pc ∨ rn = .pc) : exec (.mla c sf rd rm rs rn) s = .refused .r15Operand := by
  refine (whenPassed_of_passes passes).trans ?_
  split
  · simp at named
  · rfl

theorem exists_eq_r {r : Reg} (general : r ≠ .pc) : ∃ n, r = .r n := by
  cases r with
  | r n => exact ⟨n, rfl⟩
  | pc => exact absurd rfl general

section LongRefusals

variable {c : Cond} {s : State} {lo hi rm rs : Reg} (passes : Passes c s)
  (body : Fin 15 → Fin 15 → Word → Word → Result)
include passes

theorem mulLong_of_pc (named : lo = .pc ∨ hi = .pc ∨ rm = .pc ∨ rs = .pc) :
    mulLong c lo hi rm rs s body = .refused .r15Operand := by
  refine (whenPassed_of_passes passes).trans ?_
  split
  · simp at named
  · rfl

theorem mulLong_of_overlap (hlo : lo ≠ .pc) (hhi : hi ≠ .pc) (hm : rm ≠ .pc) (hs : rs ≠ .pc)
    (overlap : hi = lo ∨ hi = rm ∨ lo = rm) : mulLong c lo hi rm rs s body = .refused .mulLongOverlap := by
  obtain ⟨l, rfl⟩ := exists_eq_r hlo
  obtain ⟨h, rfl⟩ := exists_eq_r hhi
  obtain ⟨m, rfl⟩ := exists_eq_r hm
  obtain ⟨k, rfl⟩ := exists_eq_r hs
  exact (whenPassed_of_passes passes).trans (if_pos (by simpa using overlap))

end LongRefusals

/-- Settles O30: the long forms are one skeleton, whose refusals do not look at what it runs. -/
theorem multiplyRestrictions : Obligations.MultiplyRestrictions := by
  intro c sf s passes
  refine ⟨fun rd rm rs rn => ⟨exec_mul_of_pc sf passes, exec_mla_of_pc sf passes⟩, fun d k n => ⟨?_, ?_⟩,
    fun lo hi rm rs i form => ?_⟩
  · exact (whenPassed_of_passes passes).trans (if_pos rfl)
  · exact (whenPassed_of_passes passes).trans (if_pos rfl)
  · have skeleton : ∃ body, exec i s = mulLong c lo hi rm rs s body := by
      simp only [List.mem_cons, List.not_mem_nil, or_false] at form
      obtain rfl | rfl | rfl | rfl := form
      · exact ⟨_, exec_umull c sf lo hi rm rs s⟩
      · exact ⟨_, exec_umlal c sf lo hi rm rs s⟩
      · exact ⟨_, exec_smull c sf lo hi rm rs s⟩
      · exact ⟨_, exec_smlal c sf lo hi rm rs s⟩
    obtain ⟨body, run⟩ := skeleton
    rw [run]
    exact ⟨mulLong_of_pc passes body, mulLong_of_overlap passes body⟩

end Sys2Proof.Machine
end

section
/-! Single transfers and swaps that complete, and what they refuse: the loads, the stores and the exchange of a register
with memory (46_load_store_single.md R267 to R286; 48_swap.md R330, R331). -/

namespace Sys2Proof.Machine

open Sys2Proof.Safety

/-! ## Addresses (46_load_store_single.md R267 to R270) -/

/-- Settles O35: the branches of `offsetValue` and `transferAddress`. -/
theorem transferAddresses : Obligations.TransferAddresses :=
  fun _ _ _ _ _ _ _ _ => ⟨rfl, rfl, rfl, rfl, rfl⟩

/-! ## How a single transfer that is allowed ends (46_load_store_single.md R273, R274) -/

section Allowed

variable {i : Instr} {f : TransferForm} {s : State} (passes : Passes f.cond s) (free : ¬ f.Restricted)
  (pcAllowed : f.rd = .pc → f.MayNamePc)
include passes free pcAllowed

theorem exec_of_loadForm_done {data : Word} (form : loadForm? i = some f)
    (read : memRead s (f.address s) f.size (f.user s) = .done data) :
    exec i s = finishLoad f.rd (extendLoaded f.size f.signed data) { s with regs := f.regsAfter s } := by
  unfold TransferForm.address TransferForm.user at read
  rw [exec_of_loadForm form, loadSingle, whenPassed_of_passes passes, ← writeBack_newBase]
  simp only [transferRefusal_of_not_restricted free pcAllowed, read]
  rfl

theorem exec_of_loadForm_canRead (form : loadForm? i = some f)
    (canRead : CanRead s (f.address s) f.size.bytes (f.user s)) :
    exec i s = finishLoad f.rd (loadValue f.size f.signed s.mem (f.address s).toNat)
      { s with regs := f.regsAfter s } := by
  rw [exec_of_loadForm_done passes free pcAllowed form (memRead_of_canRead canRead), extendLoaded_loadBytes]

theorem exec_of_storeForm_done {v : Word} {t : State} (form : storeForm? i = some f)
    (value : storeValue f.rd s = some v) (write : memWrite s (f.address s) f.size v (f.user s) = .done t) :
    exec i s = advance (writeBack f.ix f.rn (f.newBase s) t) := by
  unfold TransferForm.address TransferForm.user at write
  rw [exec_of_storeForm form, storeSingle, whenPassed_of_passes passes]
  simp only [transferRefusal_of_not_restricted free pcAllowed, value, write]
  rfl

theorem exec_of_loadForm_accessRefusal {r : Refusal} (form : loadForm? i = some f)
    (refused : memRead s (f.address s) f.size (f.user s) = .refused r) : exec i s = .refused r := by
  unfold TransferForm.address TransferForm.user at refused
  rw [exec_of_loadForm form, loadSingle, whenPassed_of_passes passes]
  simp only [transferRefusal_of_not_restricted free pcAllowed, refused]

theorem exec_of_storeForm_accessRefusal {v : Word} {r : Refusal} (form : storeForm? i = some f)
    (value : storeValue f.rd s = some v) (refused : memWrite s (f.address s) f.size v (f.user s) = .refused r) :
    exec i s = .refused r := by
  unfold TransferForm.address TransferForm.user at refused
  rw [exec_of_storeForm form, storeSingle, whenPassed_of_passes passes]
  simp only [transferRefusal_of_not_restricted free pcAllowed, value, refused]

theorem exec_of_storeForm_noValue (form : storeForm? i = some f) (noValue : storeValue f.rd s = none) :
    exec i s = .refused .storeOfR15 := by
  rw [exec_of_storeForm form, storeSingle, whenPassed_of_passes passes]
  simp only [transferRefusal_of_not_restricted free pcAllowed, noValue]

end Allowed

/-! ## Loads (46_load_store_single.md R274 to R281) -/

/-- Settles O36: a load into a general register ends in the write of the loaded value. -/
theorem loadsWriteRegister : Obligations.LoadsWriteRegister := by
  intro i f n s form hrd free passes canRead hasNext
  rw [exec_of_loadForm_canRead passes free (by simp [hrd]) form canRead, hrd]
  exact advance_of_hasNext hasNext

theorem branchTo_of_not_wordAligned {v : Word} (s : State) (h : wordAligned v = false) :
    branchTo v s = .refused .unalignedPcWrite :=
  if_neg (by rw [h]; exact Bool.false_ne_true)

/-- Settles O37: a load into R15 ends in the jump to the loaded word. -/
theorem loadToR15Jumps : Obligations.LoadToR15Jumps := by
  intro i f s form hrd mayNamePc free passes canRead v
  have word := mayNamePc.1
  have run : exec i s = branchTo v { s with regs := f.regsAfter s } := by
    rw [exec_of_loadForm_canRead passes free (fun _ => mayNamePc) form (by rwa [word]), hrd, word]
    rfl
  rw [run]
  exact ⟨fun aligned => if_pos aligned, branchTo_of_not_wordAligned _⟩

/-! ## Stores (46_load_store_single.md R274, R282 to R286) -/

/-- The write-back does not look at memory. -/
theorem writeBack_newBase_of_mem (f : TransferForm) (s : State) (m : Memory) :
    writeBack f.ix f.rn (f.newBase s) { s with mem := m } = { s with regs := f.regsAfter s, mem := m } := by
  unfold writeBack TransferForm.regsAfter
  cases f.ix.writesBack with
  | false => rfl
  | true => cases f.rn <;> rfl

theorem storeValue_pc_of_plus8 {s : State} (offset : s.platform.pcStoreOffset = some .plus8) :
    storeValue .pc s = some (s.pc + 8#32) := by
  simp [storeValue, storedPc, offset]

theorem storeValue_pc_of_plus12 {s : State} (offset : s.platform.pcStoreOffset = some .plus12) :
    storeValue .pc s = some (s.pc + 12#32) := by
  simp [storeValue, storedPc, offset]

/-- Settles O38: the value stored, a general register's or R15's, and the end of the store after its write. -/
theorem storesWriteMemory : Obligations.StoresWriteMemory := by
  intro i f v s form free source passes canWrite hasNext
  have value : storeValue f.rd s = some v ∧ (f.rd = .pc → f.MayNamePc) := by
    obtain ⟨n, hrd, rfl⟩ | ⟨hrd, mayNamePc, ⟨offset, rfl⟩ | ⟨offset, rfl⟩⟩ := source
    · exact ⟨by rw [hrd]; rfl, by simp [hrd]⟩
    · exact ⟨by rw [hrd, storeValue_pc_of_plus8 offset], fun _ => mayNamePc⟩
    · exact ⟨by rw [hrd, storeValue_pc_of_plus12 offset], fun _ => mayNamePc⟩
  obtain ⟨value, pcAllowed⟩ := value
  refine ⟨_, stored_storeBytes _ _ _ _, ?_⟩
  rw [exec_of_storeForm_done passes free pcAllowed form value (memWrite_of_canWrite canWrite), writeBack_newBase_of_mem]
  exact advance_of_hasNext hasNext

/-! ## The operands refused (46_load_store_single.md R273) -/

theorem exec_of_transferRefusal {i : Instr} {f : TransferForm} {s : State} {r : Refusal}
    (form : loadForm? i = some f ∨ storeForm? i = some f) (passes : Passes f.cond s)
    (refused : transferRefusal (pcRuleOf f) f.ix f.rn f.rd f.off = some r) : exec i s = .refused r := by
  obtain form | form := form
  · rw [exec_of_loadForm form, loadSingle, whenPassed_of_passes passes]
    simp only [refused]
  · rw [exec_of_storeForm form, storeSingle, whenPassed_of_passes passes]
    simp only [refused]

section Table

variable {f : TransferForm}

theorem transferRefusal_of_offsetPc (offset : f.off.register? = some .pc) :
    transferRefusal (pcRuleOf f) f.ix f.rn f.rd f.off = some .r15Operand :=
  if_pos offset

theorem transferRefusal_of_basePc (offset : f.off.register? ≠ some .pc) (wb : f.ix.writesBack = true)
    (base : f.rn = .pc) : transferRefusal (pcRuleOf f) f.ix f.rn f.rd f.off = some .writebackToR15 := by
  rw [transferRefusal, if_neg offset, if_pos (by simp [wb, base])]

theorem transferRefusal_of_overlap (offset : f.off.register? ≠ some .pc) (wb : f.ix.writesBack = true)
    (base : f.rn ≠ .pc) (overlap : f.rd = f.rn ∨ f.off.register? = some f.rn) :
    transferRefusal (pcRuleOf f) f.ix f.rn f.rd f.off = some .writebackOverlap := by
  rw [transferRefusal, if_neg offset, if_neg (by simp [base])]
  obtain same | same := overlap
  · rw [if_pos (by simp [wb, same])]
  · rw [if_pos (c := (f.ix.writesBack && decide (f.off.register? = some f.rn)) = true) (by simp [wb, same]), ite_self]

theorem transferRefusal_of_pc (free : ¬ f.Restricted) (hrd : f.rd = .pc) (notAllowed : ¬ f.MayNamePc) :
    transferRefusal (pcRuleOf f) f.ix f.rn f.rd f.off = some .r15Operand := by
  obtain ⟨offset, base⟩ := not_or.mp free
  simp only [not_and, not_or] at base
  rw [transferRefusal, if_neg offset, if_neg (by simpa using fun wb => (base wb).1),
    if_neg (by simpa using fun wb => (base wb).2.1), if_neg (by simpa using fun wb => (base wb).2.2), if_pos hrd]
  exact if_neg notAllowed

end Table

/-- Settles O39: the table's rows in the model's order, then the value that is not there. -/
theorem transferRestrictions : Obligations.TransferRestrictions := by
  intro i f s form passes
  have refuses {r : Refusal} := exec_of_transferRefusal (r := r) form passes
  refine ⟨fun offset => refuses (transferRefusal_of_offsetPc offset),
    fun offset wb base => refuses (transferRefusal_of_basePc offset wb base),
    fun offset wb base overlap => refuses (transferRefusal_of_overlap offset wb base overlap),
    fun free hrd notAllowed => refuses (transferRefusal_of_pc free hrd notAllowed),
    fun free hrd mayNamePc store unset => ?_⟩
  refine exec_of_storeForm_noValue passes free (fun _ => mayNamePc) store ?_
  simp [hrd, storeValue, storedPc, unset]

/-! ## Swaps (48_swap.md R330, R331) -/

section Swaps

variable {c : Cond} {sz : Size} {d m n : Fin 15} {s : State} (passes : Passes c s)
include passes

theorem swapMemory_of_pc {rd rm rn : Reg} (sz : Size) (named : rd = .pc ∨ rm = .pc ∨ rn = .pc) :
    swapMemory c sz rd rm rn s = .refused .r15Operand := by
  refine (whenPassed_of_passes passes).trans ?_
  split
  · simp at named
  · rfl

theorem swapMemory_of_overlap (sz : Size) (overlap : n = d ∨ n = m) :
    swapMemory c sz (.r d) (.r m) (.r n) s = .refused .swapBaseOverlap :=
  (whenPassed_of_passes passes).trans (if_pos overlap)

variable (hd : n ≠ d) (hm : n ≠ m)
include hd hm

theorem swapMemory_of_accessRefusal {r : Refusal} (refused : memRead s (readGeneral s n) sz (userMode s) = .refused r) :
    swapMemory c sz (.r d) (.r m) (.r n) s = .refused r := by
  refine (whenPassed_of_passes passes).trans ((if_neg (not_or.mpr ⟨hd, hm⟩)).trans ?_)
  simp only [refused]

theorem swapMemory_of_readAbort (abort : memRead s (readGeneral s n) sz (userMode s) = .abort) :
    swapMemory c sz (.r d) (.r m) (.r n) s = takeException .dataAbort s := by
  refine (whenPassed_of_passes passes).trans ((if_neg (not_or.mpr ⟨hd, hm⟩)).trans ?_)
  simp only [abort]

theorem swapMemory_of_writeAbort {old : Word} (read : memRead s (readGeneral s n) sz (userMode s) = .done old)
    (abort : memWrite s (readGeneral s n) sz (readGeneral s m) (userMode s) = .abort) :
    swapMemory c sz (.r d) (.r m) (.r n) s = takeException .dataAbort s := by
  refine (whenPassed_of_passes passes).trans ((if_neg (not_or.mpr ⟨hd, hm⟩)).trans ?_)
  simp only [read, abort]

theorem swapMemory_of_done {old : Word} {t : State} (read : memRead s (readGeneral s n) sz (userMode s) = .done old)
    (write : memWrite s (readGeneral s n) sz (readGeneral s m) (userMode s) = .done t) :
    swapMemory c sz (.r d) (.r m) (.r n) s = advance (writeGeneral t d old) := by
  refine (whenPassed_of_passes passes).trans ((if_neg (not_or.mpr ⟨hd, hm⟩)).trans ?_)
  simp only [read, write]

/-- A swap whose read and write are both allowed, but for `MemAbort` of one of them. -/
theorem swapMemory_of_aborts (reach : Reachable s (readGeneral s n) sz.bytes)
    (aborts : memAborts s.platform (readGeneral s n).toNat sz.bytes .read (userMode s) = true ∨
      (¬ InCode s (readGeneral s n).toNat sz.bytes ∧
        memAborts s.platform (readGeneral s n).toNat sz.bytes .write (userMode s) = true)) :
    swapMemory c sz (.r d) (.r m) (.r n) s = takeException .dataAbort s := by
  cases read : memAborts s.platform (readGeneral s n).toNat sz.bytes .read (userMode s) with
  | true => exact swapMemory_of_readAbort passes hd hm (memRead_abort.mpr ⟨reach, read⟩)
  | false =>
    obtain ⟨notCode, write⟩ := aborts.resolve_left (by simp [read])
    exact swapMemory_of_writeAbort passes hd hm (memRead_of_canRead ⟨reach, read⟩)
      (memWrite_abort.mpr ⟨reach, notCode, write⟩)

/-- The exchange; an unsigned load is what `Rd` gets. -/
theorem swapMemory_exchanges (canRead : CanRead s (readGeneral s n) sz.bytes (userMode s))
    (canWrite : CanWrite s (readGeneral s n) sz.bytes (userMode s)) (hasNext : HasNext s) :
    swapMemory c sz (.r d) (.r m) (.r n) s = .next { s with
      regs := s.regs.set (physReg s.cpsr.m d) (loadBytes s.mem (readGeneral s n).toNat sz.bytes)
      mem := storeBytes s.mem (readGeneral s n).toNat (readGeneral s m) sz.bytes
      pc := s.pc + 4#32 } := by
  rw [swapMemory_of_done passes hd hm (memRead_of_canRead canRead) (memWrite_of_canWrite canWrite)]
  exact advance_of_hasNext hasNext

end Swaps

/-- A zero-extending load of the bytes is the bytes. -/
theorem loadBytes_eq_loadValue (sz : Size) (m : Memory) (a : Nat) :
    loadBytes m a sz.bytes = loadValue sz false m a := by
  rw [← extendLoaded_loadBytes]
  refine BitVec.eq_of_getLsbD_eq fun i hi => ?_
  cases sz with
  | word => rfl
  | byte =>
    simp only [extendLoaded, BitVec.getLsbD_setWidth, getLsbD_loadBytes, Size.bytes]
    by_cases low : i < 8 <;> simp [hi, low]
  | half =>
    simp only [extendLoaded, BitVec.getLsbD_setWidth, getLsbD_loadBytes, Size.bytes]
    by_cases low : i < 16 <;> simp [hi, low]

/-- Settles O42: the exchange for a word and for a byte. -/
theorem swapExchanges : Obligations.SwapExchanges := by
  intro c d m n s passes hd hm hasNext ends
  have exchange (i : Instr) (sz : Size) (run : exec i s = swapMemory c sz (.r d) (.r m) (.r n) s) : ends i sz := by
    intro canRead canWrite
    refine ⟨_, stored_storeBytes _ _ _ _, ?_⟩
    rw [run, swapMemory_exchanges passes hd hm canRead canWrite hasNext, loadBytes_eq_loadValue]
  exact ⟨exchange _ .word rfl, exchange _ .byte rfl⟩

/-- Settles O43: the refusals and the aborts of the one operation both swaps are. -/
theorem swapRestrictionsAndAborts : Obligations.SwapRestrictionsAndAborts := by
  intro c s passes
  refine ⟨fun rd rm rn named => ⟨swapMemory_of_pc passes .word named, swapMemory_of_pc passes .byte named⟩,
    fun d m n => ⟨fun overlap =>
        ⟨swapMemory_of_overlap passes .word overlap, swapMemory_of_overlap passes .byte overlap⟩,
      fun hd hm room => ⟨fun ⟨reach, abort⟩ => ?_, fun ⟨reach, abort⟩ => ?_⟩⟩⟩
  · exact (swapMemory_of_aborts passes hd hm reach abort).trans (takeException_of_room room)
  · exact (swapMemory_of_aborts passes hd hm reach abort).trans (takeException_of_room room)

/-! ## Misaligned accesses (20_memory.md R75; 46_load_store_single.md R288) -/

theorem exec_of_blockRefusal {i : Instr} {f : BlockForm} {s : State} {r : Refusal} (form : blockForm? i = some f)
    (passes : Passes f.cond s) (refused : blockRefusal f.rn f.list s = some r) : exec i s = .refused r := by
  cases load : f.load with
  | true =>
    obtain ⟨finish, run⟩ := exec_of_loadBlockForm form load s
    rw [run, loadBlock, whenPassed_of_passes passes]
    simp only [refused]
  | false =>
    obtain ⟨finish, run⟩ := exec_of_storeBlockForm form load s
    rw [run, storeBlock, whenPassed_of_passes passes]
    simp only [refused]

theorem blockRefusal_of_misaligned {n : Fin 15} {list : BitVec 16} {s : State} (listed : list ≠ 0#16)
    (misaligned : (readGeneral s n).toNat % 4 ≠ 0) : blockRefusal (.r n) list s = some .unalignedAccess := by
  have notAligned : wordAligned (readReg s (.r n)) = false :=
    Bool.eq_false_iff.mpr (mt wordAligned_iff.mp misaligned)
  rw [blockRefusal, if_neg listed, if_neg Reg.noConfusion, notAligned]
  rfl

/-- Settles O40: alignment is the first thing an access asks, and a block transfer asks it of its base. -/
theorem misalignedAccessIsRefused : Obligations.MisalignedAccessIsRefused := by
  refine ⟨fun i f s form passes free pcRule misaligned => ?single,
    fun i f n s form passes hrn listed misaligned => ?block,
    fun c d m n s passes hd hm misaligned => ?swap⟩
  case single =>
    have refusal := accessRefusal_of_misaligned (s := s) misaligned
    have pcAllowed (hrd : f.rd = .pc) : f.MayNamePc := (pcRule hrd).1
    obtain load | store := form
    · exact exec_of_loadForm_accessRefusal passes free pcAllowed load (memRead_of_accessRefusal refusal)
    · obtain ⟨v, value⟩ := storeValue_eq_some fun hrd => (pcRule hrd).2 store
      exact exec_of_storeForm_accessRefusal passes free pcAllowed store value (memWrite_of_accessRefusal refusal)
  case block =>
    exact exec_of_blockRefusal form passes (by rw [hrn]; exact blockRefusal_of_misaligned listed misaligned)
  case swap =>
    exact swapMemory_of_accessRefusal passes hd hm
      (memRead_of_accessRefusal (sz := .word) (accessRefusal_of_misaligned misaligned))

end Sys2Proof.Machine
end

section
/-! Block transfers that complete: the registers an LDM leaves, the words an STM stores, the statements on each variant,
and a push followed by the pop that meets it (47_load_store_multiple.md R301 to R314). -/

namespace Sys2Proof.Machine

open Sys2Proof.Safety

/-! ## The pairs an LDM loads (47_load_store_multiple.md R306) -/

/-- The listed registers, each with a word that depends on the register alone. -/
def pairsOf (regs : List Reg) (value : Reg → Word) : List (Reg × Word) := regs.map fun r => (r, value r)

theorem loadedPc_pairsOf (regs : List Reg) (value : Reg → Word) :
    loadedPc (pairsOf regs value) = if Reg.pc ∈ regs then some (value .pc) else none := by
  induction regs with
  | nil => rfl
  | cons r rest ih =>
    cases r with
    | pc => simp [loadedPc, pairsOf]
    | r n =>
      rw [show loadedPc (pairsOf (.r n :: rest) value) = loadedPc (pairsOf rest value) from rfl, ih]
      simp

/-- Each register the pairs name ends with its word, every other of the bank keeps its value. -/
theorem writeList_pairsOf_get (bank : BlockBank) (s : State) (regs : List Reg) (value : Reg → Word) (n : Fin 15) :
    (writeList bank s (pairsOf regs value)).regs.get (blockReg bank s.cpsr.m n) =
      if Reg.r n ∈ regs then value (.r n) else s.regs.get (blockReg bank s.cpsr.m n) := by
  induction regs generalizing s with
  | nil => rfl
  | cons r rest ih =>
    cases r with
    | pc =>
      rw [show writeList bank s (pairsOf (.pc :: rest) value) = writeList bank s (pairsOf rest value) from rfl, ih]
      simp
    | r k =>
      have next := ih (writeBank bank s k (value (.r k)))
      rw [writeBank_cpsr] at next
      refine next.trans ?_
      by_cases same : n = k
      · simp [same, writeBank_eq]
      · have other : blockReg bank s.cpsr.m n ≠ blockReg bank s.cpsr.m k := fun h => same (blockReg_injective _ _ h)
        simp [same, writeBank_eq, RegFile.get_set_other _ _ other]

theorem writeList_pairsOf_get_other {bank : BlockBank} {s : State} {regs : List Reg} (value : Reg → Word) {p : PhysReg}
    (h : ∀ n, Reg.r n ∈ regs → p ≠ blockReg bank s.cpsr.m n) :
    (writeList bank s (pairsOf regs value)).regs.get p = s.regs.get p := by
  refine writeList_get_other fun n v named => (h n ?_).symm
  obtain ⟨r, listed, pair⟩ := List.mem_map.mp named
  rwa [← (Prod.mk.inj pair).1]

/-- The word at the place of a register in a block transfer. -/
def slotWord (m : Memory) (mode : BlockMode) (b : Word) (list : BitVec 16) (r : Reg) : Word :=
  wordAt m (slotAddress mode b list (regNumber r))

section Loads

variable {mode : BlockMode} {b : Word} {list : BitVec 16} {s : State}

/-- The place of a listed register is an address. -/
theorem slotAddress_lt (ok : BlockOk mode b list) {k : Nat} (hk : k < 16) (listed : list.getLsbD k = true) :
    slotAddress mode b list k + 4 ≤ 2 ^ 32 := by
  obtain ⟨-, -, low, high⟩ := ok
  have lt := slotOf_lt_slotOf hk listed
  unfold slotAddress
  omega

theorem toNat_slotAddress (ok : BlockOk mode b list) {k : Nat} (hk : k < 16) (listed : list.getLsbD k = true) :
    (BitVec.ofNat 32 (slotAddress mode b list k)).toNat = slotAddress mode b list k := by
  have lt := slotAddress_lt ok hk listed
  rw [BitVec.toNat_ofNat, Nat.mod_eq_of_lt (by omega)]

/-- The loads of the registers below R`k` stand before the loads from its place on. -/
theorem loadList_listedBelow_done {k : Nat} {rest : List Reg} {vs : List (Reg × Word)} (ok : BlockOk mode b list)
    (hk : k ≤ 16)
    (readable : ∀ j < k, list.getLsbD j = true →
      CanRead s (BitVec.ofNat 32 (slotAddress mode b list j)) 4 (userMode s))
    (after : loadList s (slotAddress mode b list k) rest = .done vs) :
    loadList s (slotAddress mode b list 0) (listedBelow list k ++ rest) =
      .done (pairsOf (listedBelow list k) (slotWord s.mem mode b list) ++ vs) := by
  induction k generalizing rest vs with
  | zero => exact after
  | succ k ih =>
    obtain ⟨r, rfl⟩ := exists_regNumber_eq hk
    have below := fun j (hj : j < regNumber r) => readable j (Nat.lt_succ_of_lt hj)
    rw [slotAddress_eq, slotOf_succ] at after
    rw [listedBelow_succ, pairsOf, List.map_append, List.append_assoc, List.append_assoc]
    refine ih (by omega) below ?_
    by_cases listed : list.getLsbD (regNumber r) = true
    · have read := memRead_of_canRead (sz := .word) (readable _ (Nat.lt_succ_self _) listed)
      rw [toNat_slotAddress ok (by omega) listed] at read
      rw [if_pos listed, Nat.mul_add, ← Nat.add_assoc, ← slotAddress_eq] at after
      rw [if_pos listed, List.singleton_append, loadList, read]
      simp only [show loadList s (slotAddress mode b list (regNumber r) + 4) rest = .done vs from after]
      simp [slotWord, loadBytes_four, Size.bytes]
    · rw [if_neg listed] at after ⊢
      exact after

theorem listedBelow_sixteen (list : BitVec 16) : listedBelow list 16 = listedRegs list := rfl

/-- Words that can all be read are all loaded, each from the place of its register. -/
theorem loadList_listedRegs (ok : BlockOk mode b list) (readable : AllReadable s mode b list) :
    loadList s (slotAddress mode b list 0) (listedRegs list) =
      .done (pairsOf (listedRegs list) (slotWord s.mem mode b list)) := by
  have done := loadList_listedBelow_done (rest := []) (vs := []) ok (Nat.le_refl 16) readable rfl
  rwa [List.append_nil, List.append_nil, listedBelow_sixteen] at done

end Loads

/-! ## The restrictions a transfer meets (47_load_store_multiple.md R305) -/

theorem loadBlock_noOverlap {wb : Bool} {n : Fin 15} {list : BitVec 16}
    (free : ¬ (wb = true ∧ list.getLsbD n.val = true)) : ¬ (wb && (listedRegs list).contains (.r n)) = true := by
  simpa [mem_listedRegs_r] using free

theorem storeBlock_noOverlap {wb : Bool} {n : Fin 15} {list : BitVec 16}
    (free : ¬ ((wb = true ∧ list.getLsbD n.val = true) ∧ slotOf list n.val ≠ 0)) :
    ¬ (wb && (listedRegs list).contains (.r n) && (listedRegs list).head? != some (.r n)) = true := by
  simp only [Bool.and_eq_true, List.contains_iff_mem, mem_listedRegs_r, bne_iff_ne]
  rintro ⟨⟨hwb, listed⟩, notHead⟩
  exact free ⟨⟨hwb, listed⟩, fun first => notHead (head?_listedRegs listed first)⟩

theorem storeBlock_pcStored {list : BitVec 16} {s : State}
    (pcSet : ¬ (list.getLsbD 15 = true ∧ s.platform.pcStoreOffset = none)) :
    ¬ (listsPc list && (storedPc s).isNone) = true := by
  simpa [listsPc] using fun listed => storedPc_ne_none fun unset => pcSet ⟨listed, unset⟩

/-! ## What an LDM leaves (47_load_store_multiple.md R301, R302, R306) -/

/-- The registers after an LDM from base `b` of R`n`: the written-back base first, then the loaded words. -/
def regsAfterLoad (bank : BlockBank) (mode : BlockMode) (wb : Bool) (n : Fin 15) (list : BitVec 16) (s : State) :
    RegFile :=
  (writeList bank (if wb then writeGeneral s n (blockBase mode (readGeneral s n) list) else s)
    (pairsOf (listedRegs list) (slotWord s.mem mode (readGeneral s n) list))).regs

section AfterLoad

variable {bank : BlockBank} {mode : BlockMode} {wb : Bool} {n : Fin 15} {list : BitVec 16} {s : State}

/-- The state an LDM ends in before its pc is written. -/
theorem writeList_eq_regsAfterLoad :
    writeList bank (if wb then writeGeneral s n (blockBase mode (readGeneral s n) list) else s)
      (pairsOf (listedRegs list) (slotWord s.mem mode (readGeneral s n) list)) =
    { s with regs := regsAfterLoad bank mode wb n list s } := by
  rw [writeList_eq, regsAfterLoad]
  cases wb <;> rfl

theorem regsAfterLoad_get_listed {k : Fin 15} (listed : list.getLsbD k.val = true) :
    (regsAfterLoad bank mode wb n list s).get (blockReg bank s.cpsr.m k) =
      wordAt s.mem (slotAddress mode (readGeneral s n) list k.val) := by
  have get := writeList_pairsOf_get bank (if wb then writeGeneral s n (blockBase mode (readGeneral s n) list) else s)
    (listedRegs list) (slotWord s.mem mode (readGeneral s n) list) k
  rw [if_pos (mem_listedRegs_r.mpr listed)] at get
  cases wb <;> exact get

theorem regsAfterLoad_get_base (notListed : list.getLsbD n.val = false) :
    (regsAfterLoad .current mode wb n list s).get (physReg s.cpsr.m n) =
      if wb then blockBase mode (readGeneral s n) list else readGeneral s n := by
  rw [regsAfterLoad, writeList_pairsOf_get_other]
  · cases wb with
    | false => rfl
    | true => exact RegFile.get_set_same _ _ _
  · rintro k listed same
    have sameReg : physReg s.cpsr.m n = physReg s.cpsr.m k := by cases wb <;> exact same
    rw [mem_listedRegs_r, ← physReg_injective _ sameReg, notListed] at listed
    cases listed

/-- A register neither listed nor written back keeps its value. -/
theorem regsAfterLoad_get_other {p : PhysReg} (notBase : wb = true → p ≠ physReg s.cpsr.m n)
    (notListed : ∀ k : Fin 15, list.getLsbD k.val = true → p ≠ blockReg bank s.cpsr.m k) :
    (regsAfterLoad bank mode wb n list s).get p = s.regs.get p := by
  rw [regsAfterLoad, writeList_pairsOf_get_other]
  · cases wb with
    | false => rfl
    | true => exact RegFile.get_set_other _ _ (notBase rfl)
  · intro k listed
    cases wb <;> exact notListed k (mem_listedRegs_r.mp listed)

/-- The three clauses of LDM (1) and LDM (3) on the registers. -/
theorem regsAfterLoad_current :
    (∀ k : Fin 15, list.getLsbD k.val = true → (regsAfterLoad .current mode wb n list s).get (physReg s.cpsr.m k) =
      wordAt s.mem (slotAddress mode (readGeneral s n) list k.val)) ∧
    (list.getLsbD n.val = false → (regsAfterLoad .current mode wb n list s).get (physReg s.cpsr.m n) =
      if wb then blockBase mode (readGeneral s n) list else readGeneral s n) ∧
    ∀ p, (∀ k : Fin 15, (list.getLsbD k.val = true ∨ k = n) → p ≠ physReg s.cpsr.m k) →
      (regsAfterLoad .current mode wb n list s).get p = s.regs.get p :=
  ⟨fun _ listed => regsAfterLoad_get_listed listed, regsAfterLoad_get_base,
    fun _ other => regsAfterLoad_get_other (fun _ => other n (.inr rfl)) fun k listed => other k (.inl listed)⟩

theorem loadBlock_of_readable {c : Cond} (passes : Passes c s) (ok : BlockOk mode (readGeneral s n) list)
    (baseNotListed : wb = true → list.getLsbD n.val = false) (readable : AllReadable s mode (readGeneral s n) list)
    (finish : List (Reg × Word) → State → Result) :
    loadBlock c mode wb (.r n) list bank none s finish =
      finish (pairsOf (listedRegs list) (slotWord s.mem mode (readGeneral s n) list))
        { s with regs := regsAfterLoad bank mode wb n list s } := by
  have noOverlap := loadBlock_noOverlap fun ⟨hwb, listed⟩ => Bool.eq_false_iff.mp (baseNotListed hwb) listed
  rw [← writeList_eq_regsAfterLoad]
  unfold loadBlock
  rw [whenPassed_of_passes passes]
  simp only [blockRefusal_of_blockOk ok, if_neg noOverlap, length_listedRegs, blockWraps_of_blockOk ok]
  rw [show loadList s (blockStart mode _ _).toNat (listedRegs list) = _ from loadList_listedRegs ok readable]
  rfl

end AfterLoad

/-- The word for R15 is loaded exactly where R15 is listed. -/
theorem loadedPc_listedRegs (m : Memory) (mode : BlockMode) (b : Word) (list : BitVec 16) :
    loadedPc (pairsOf (listedRegs list) (slotWord m mode b list)) =
      if list.getLsbD 15 then some (wordAt m (slotAddress mode b list 15)) else none := by
  rw [loadedPc_pairsOf]
  exact if_congr mem_listedRegs_pc rfl rfl

/-! ## LDM (1), LDM (3) and LDM (2) (47_load_store_multiple.md R308 to R310) -/

/-- The end of LDM (1) and of LDM (3): a jump of either kind where R15 was loaded. -/
def finishLoadMultiple (jump : Word → State → Result) (vs : List (Reg × Word)) (t : State) : Result :=
  match loadedPc vs with
  | none => advance t
  | some v => jump v t

theorem finishLoadMultiple_listedRegs (jump : Word → State → Result) (m : Memory) (mode : BlockMode) (b : Word)
    (list : BitVec 16) (t : State) :
    finishLoadMultiple jump (pairsOf (listedRegs list) (slotWord m mode b list)) t =
      if list.getLsbD 15 then jump (wordAt m (slotAddress mode b list 15)) t else advance t := by
  rw [finishLoadMultiple, loadedPc_listedRegs]
  cases list.getLsbD 15 <;> rfl

section Variants

variable (c : Cond) (mode : BlockMode) (wb : Bool) (rn : Reg) (list : BitVec 16) (s : State)

theorem exec_ldm1 : exec (.ldm1 c mode wb rn list) s =
    loadBlock c mode wb rn list .current none s (finishLoadMultiple branchTo) := rfl

theorem exec_ldm3 : exec (.ldm3 c mode wb rn list) s =
    loadBlock c mode wb rn list .current (noSpsrRefusal s) s (finishLoadMultiple exceptionReturn) := rfl

theorem exec_ldm2 : exec (.ldm2 c mode rn list) s =
    loadBlock c mode false rn list .userBank (userBankRefusal s) s fun _ t => finishUserTransfer t := rfl

end Variants

/-- Settles O44: the pc is written after the registers, by a jump where R15 is listed. -/
theorem loadMultiple : Obligations.LoadMultiple := by
  intro c mode wb n list s b v passes ok baseNotListed readable
  rw [exec_ldm1, loadBlock_of_readable passes ok baseNotListed readable, finishLoadMultiple_listedRegs]
  refine ⟨fun listed odd => ?refused, fun aligned hasNext => ⟨_, ?runs, regsAfterLoad_current⟩⟩
  case refused =>
    rw [if_pos listed]
    exact branchTo_of_not_wordAligned _ odd
  case runs =>
    cases listed : list.getLsbD 15 with
    | true => exact if_pos (aligned listed)
    | false => exact advance_of_hasNext (hasNext listed)

/-- Settles O45: the return from an exception, from the state with the registers loaded. -/
theorem loadMultipleRestoresCpsr : Obligations.LoadMultipleRestoresCpsr := by
  intro c mode wb n list s e b v p passes ok baseNotListed readable listed hm
  have special : noSpsrRefusal s = none := by rw [noSpsrRefusal, hm]
  rw [exec_ldm3, special, loadBlock_of_readable passes ok baseNotListed readable, finishLoadMultiple_listedRegs,
    if_pos listed]
  have still : { s with regs := regsAfterLoad .current mode wb n list s }.cpsr.m = .exc e := hm
  refine ⟨exceptionReturn_of_thumb still v, fun noThumb illegal => ?_, fun m noThumb legal => ?_⟩
  · exact exceptionReturn_of_illegalMode still v noThumb (by rw [Psr.restore, illegal]; rfl)
  · rw [exceptionReturn_of_restore still v noThumb (by rw [Psr.restore, legal]; rfl)]
    exact ⟨branchTo_of_not_wordAligned _, fun aligned => ⟨_, if_pos aligned, regsAfterLoad_current⟩⟩

theorem userBankRefusal_eq_none {s : State} (h : HasSpsr s.cpsr.m) : userBankRefusal s = none := by
  obtain ⟨notUser, notSystem⟩ := h
  unfold userBankRefusal
  cases hm : s.cpsr.m with
  | user => exact absurd hm notUser
  | system => exact absurd hm notSystem
  | exc e => rfl

/-- Settles O46: the User bank is what is written; R15 is not listed, so the pc only advances. -/
theorem loadMultipleUserBank : Obligations.LoadMultipleUserBank := by
  intro c mode n list s b passes hasSpsr ok readable _ hasNext
  have run : exec (.ldm2 c mode (.r n) list) s =
      finishUserTransfer { s with regs := regsAfterLoad .userBank mode false n list s } := by
    rw [exec_ldm2, userBankRefusal_eq_none hasSpsr, loadBlock_of_readable passes ok Bool.noConfusion readable]
  exact ⟨_, run.trans (advance_of_hasNext hasNext), fun _ listed => regsAfterLoad_get_listed listed,
    fun _ other => regsAfterLoad_get_other Bool.noConfusion other⟩

/-! ## STM (1) and STM (2) (47_load_store_multiple.md R311, R312) -/

section Stores

variable {bank : BlockBank} {mode : BlockMode} {n : Fin 15} {list : BitVec 16} {s : State}

/-- Words that can all be written are all stored, and nothing else is. -/
theorem storeList_listedRegs {b : Word} (ok : BlockOk mode b list)
    (pcSet : list.getLsbD 15 = true → s.platform.pcStoreOffset ≠ none) (writable : AllWritable s mode b list) :
    ∃ m', BlockStored s.mem m' mode b list (blockWord bank s) ∧
      storeList bank s s (slotAddress mode b list 0) (listedRegs list) = .done { s with mem := m' } := by
  have fits : slotAddress mode b list 0 + 4 * slotOf list 16 ≤ 2 ^ 32 := by
    obtain ⟨-, -, low, high⟩ := ok
    rw [show slotAddress mode b list 0 = (blockStart mode b.toNat (slotOf list 16)).toNat from rfl]
    omega
  obtain ⟨m', stored, goesOn⟩ := storeList_listedBelow (bank := bank) (Nat.le_refl 16)
    (fun listed => storedPc_ne_none (pcSet listed)) fits writable
  refine ⟨m', stored, ?_⟩
  rw [← listedBelow_sixteen, ← List.append_nil (listedBelow list 16), goesOn]
  rfl

theorem storeBlock_of_writable {c : Cond} {wb : Bool} (passes : Passes c s) (ok : BlockOk mode (readGeneral s n) list)
    (baseFirst : wb = true → list.getLsbD n.val = true → slotOf list n.val = 0)
    (pcSet : list.getLsbD 15 = true → s.platform.pcStoreOffset ≠ none)
    (writable : AllWritable s mode (readGeneral s n) list) (finish : State → Result) :
    ∃ m', BlockStored s.mem m' mode (readGeneral s n) list (blockWord bank s) ∧
      storeBlock c mode wb (.r n) list bank none s finish = finish { s with
        regs := if wb then s.regs.set (physReg s.cpsr.m n) (blockBase mode (readGeneral s n) list) else s.regs
        mem := m' } := by
  obtain ⟨m', stored, done⟩ := storeList_listedRegs (bank := bank) ok pcSet writable
  have noOverlap := storeBlock_noOverlap fun ⟨⟨hwb, listed⟩, notFirst⟩ => notFirst (baseFirst hwb listed)
  have pcStored := storeBlock_pcStored fun ⟨listed, unset⟩ => pcSet listed unset
  refine ⟨m', stored, ?_⟩
  unfold storeBlock
  rw [whenPassed_of_passes passes]
  simp only [blockRefusal_of_blockOk ok, if_neg noOverlap, if_neg pcStored, length_listedRegs, blockWraps_of_blockOk ok]
  rw [show storeList bank s s (blockStart mode _ _).toNat (listedRegs list) = .done { s with mem := m' } from done]
  cases wb <;> rfl

end Stores

theorem exec_stm1 (c : Cond) (mode : BlockMode) (wb : Bool) (rn : Reg) (list : BitVec 16) (s : State) :
    exec (.stm1 c mode wb rn list) s = storeBlock c mode wb rn list .current none s advance := rfl

theorem exec_stm2 (c : Cond) (mode : BlockMode) (rn : Reg) (list : BitVec 16) (s : State) :
    exec (.stm2 c mode rn list) s =
      storeBlock c mode false rn list .userBank (userBankRefusal s) s finishUserTransfer := rfl

/-- Settles O47: the stores, the write-back and the advance. -/
theorem storeMultiple : Obligations.StoreMultiple := by
  intro c mode wb n list s b passes ok baseFirst pcSet writable hasNext
  obtain ⟨m', stored, run⟩ := storeBlock_of_writable (bank := .current) passes ok baseFirst pcSet writable advance
  refine ⟨m', stored, ?_⟩
  rw [exec_stm1, run]
  exact advance_of_hasNext hasNext

/-- Settles O48: the stores from the User bank, and the hazard bit. -/
theorem storeMultipleUserBank : Obligations.StoreMultipleUserBank := by
  intro c mode n list s b passes hasSpsr ok pcSet writable hasNext
  obtain ⟨m', stored, run⟩ := storeBlock_of_writable (bank := .userBank) (wb := false) passes ok Bool.noConfusion pcSet
    writable finishUserTransfer
  refine ⟨m', stored, ?_⟩
  rw [exec_stm2, userBankRefusal_eq_none hasSpsr, run]
  exact advance_of_hasNext hasNext

/-! ## A push and the pop that meets it (47_load_store_multiple.md R314) -/

section PushPop

variable {b : Word} {list : BitVec 16} (low : 4 * slotOf list 16 ≤ b.toNat)
  (high : b.toNat + 4 * slotOf list 16 < 2 ^ 32)

include high in
theorem toNat_blockBase_up {mode : BlockMode} (up : mode = .ia ∨ mode = .ib) :
    (blockBase mode b list).toNat = b.toNat + 4 * slotOf list 16 := by
  have size : (BitVec.ofNat 32 (4 * slotOf list 16)).toNat = 4 * slotOf list 16 := by
    rw [BitVec.toNat_ofNat, Nat.mod_eq_of_lt (by omega)]
  obtain rfl | rfl := up <;> rw [blockBase, BitVec.toNat_add_of_lt (by omega), size]

include low in
theorem toNat_blockBase_down {mode : BlockMode} (down : mode = .da ∨ mode = .db) :
    (blockBase mode b list).toNat = b.toNat - 4 * slotOf list 16 := by
  have size : (BitVec.ofNat 32 (4 * slotOf list 16)).toNat = 4 * slotOf list 16 := by
    rw [BitVec.toNat_ofNat, Nat.mod_eq_of_lt (by omega)]
  obtain rfl | rfl := down <;> rw [blockBase, BitVec.toNat_sub_of_le (by rw [BitVec.le_def]; omega), size]

include low high in
theorem blockBase_aligned (mode : BlockMode) (aligned : b.toNat % 4 = 0) : (blockBase mode b list).toNat % 4 = 0 := by
  cases mode with
  | ia => rw [toNat_blockBase_up high (.inl rfl)]; omega
  | ib => rw [toNat_blockBase_up high (.inr rfl)]; omega
  | da => rw [toNat_blockBase_down low (.inl rfl)]; omega
  | db => rw [toNat_blockBase_down low (.inr rfl)]; omega

variable {push pop : BlockMode}
  (pair : (push, pop) ∈ [(BlockMode.db, BlockMode.ia), (.ib, .da), (.ia, .db), (.da, .ib)])
include pair

include low high in
/-- The pop starts where the push started, in a base that does not wrap. -/
theorem blockStart_pop :
    blockStart pop (blockBase push b list).toNat (slotOf list 16) = blockStart push b.toNat (slotOf list 16) := by
  simp only [List.mem_cons, Prod.mk.injEq, List.not_mem_nil, or_false] at pair
  obtain ⟨rfl, rfl⟩ | ⟨rfl, rfl⟩ | ⟨rfl, rfl⟩ | ⟨rfl, rfl⟩ := pair
  · rw [toNat_blockBase_down low (.inr rfl)]
    simp only [blockStart]; omega
  · rw [toNat_blockBase_up high (.inr rfl)]
    simp only [blockStart]; omega
  · rw [toNat_blockBase_up high (.inl rfl)]
    simp only [blockStart]; omega
  · rw [toNat_blockBase_down low (.inl rfl)]
    simp only [blockStart]; omega

include low high in
theorem slotAddress_pop (k : Nat) : slotAddress pop (blockBase push b list) list k = slotAddress push b list k := by
  rw [slotAddress, blockStart_pop low high pair, slotAddress]

include low high in
theorem blockOk_pop (ok : BlockOk push b list) : BlockOk pop (blockBase push b list) list := by
  obtain ⟨notEmpty, aligned, start, ends⟩ := ok
  refine ⟨notEmpty, blockBase_aligned low high push aligned, ?_, ?_⟩
  · rwa [blockStart_pop low high pair]
  · rwa [blockStart_pop low high pair]

/-- The pop's write-back undoes the push's. -/
theorem blockBase_pop : blockBase pop (blockBase push b list) list = b := by
  simp only [List.mem_cons, Prod.mk.injEq, List.not_mem_nil, or_false] at pair
  obtain ⟨rfl, rfl⟩ | ⟨rfl, rfl⟩ | ⟨rfl, rfl⟩ | ⟨rfl, rfl⟩ := pair
  · exact BitVec.sub_add_cancel _ _
  · exact BitVec.add_sub_cancel _ _
  · exact BitVec.add_sub_cancel _ _
  · exact BitVec.sub_add_cancel _ _

end PushPop

/-- Without abort rules no access aborts. -/
theorem memAborts_of_nil {p : Platform} (none : p.abortRules = []) (a size : Nat) (kind : AccessKind) (user : Bool) :
    memAborts p a size kind user = false := by
  simp [memAborts, none]

/-- Settles O51: the pop reads each word from the place the push stored it in, and its write-back gives the base. -/
theorem pushThenPopRestoresRegisters : Obligations.PushThenPopRestoresRegisters := by
  intro push pop n list s pair b ok low high baseNotListed pcNotListed writable noAborts room
  obtain ⟨m', ⟨words, -⟩, pushed⟩ := storeMultiple .al push true n list s rfl ok
    (fun _ listed => (Bool.eq_false_iff.mp baseNotListed listed).elim)
    (fun listed => (Bool.eq_false_iff.mp pcNotListed listed).elim)
    writable (by omega)
  let t : State := { s with
    regs := s.regs.set (physReg s.cpsr.m n) (blockBase push b list), mem := m', pc := s.pc + 4#32 }
  have base : readGeneral t n = blockBase push b list := RegFile.get_set_same _ _ _
  have readable : AllReadable t pop (readGeneral t n) list := fun k hk listed => by
    obtain ⟨reach, -, -⟩ := writable k hk listed
    rw [base, slotAddress_pop low high pair]
    exact ⟨reach, memAborts_of_nil noAborts _ _ _ _⟩
  have hasNext : HasNext t := by
    have pc : t.pc.toNat = s.pc.toNat + 4 := BitVec.toNat_add_of_lt (x := s.pc) (y := 4#32) (by simp; omega)
    omega
  obtain ⟨regs', popped, listedGet, baseGet, otherGet⟩ := (loadMultiple .al pop true n list t rfl
    (by rw [base]; exact blockOk_pop low high pair ok) (fun _ => baseNotListed) readable).2
    (fun listed => (Bool.eq_false_iff.mp pcNotListed listed).elim) (fun _ => hasNext)
  refine ⟨t, _, pushed, popped, RegFile.ext_get fun p => ?registers, rfl, rfl, ?pc⟩
  case registers =>
    by_cases isListed : ∃ k : Fin 15, list.getLsbD k.val = true ∧ p = physReg s.cpsr.m k
    · obtain ⟨k, listed, rfl⟩ := isListed
      refine (listedGet k listed).trans ?_
      rw [base, slotAddress_pop low high pair, words k (by omega) listed, blockWord, dif_pos k.isLt]
      rfl
    by_cases isBase : p = physReg s.cpsr.m n
    · rw [isBase]
      refine (baseGet baseNotListed).trans ?_
      rw [if_pos rfl, base, blockBase_pop pair]
      rfl
    · refine (otherGet p ?_).trans (RegFile.get_set_other _ _ isBase)
      rintro k (listed | rfl) same
      · exact isListed ⟨k, listed, same⟩
      · exact isBase same
  case pc =>
    simp only [pcNotListed, Bool.false_eq_true, if_false]
    exact BitVec.add_assoc _ _ _

/-! ## The refusals of a block transfer (47_load_store_multiple.md R301, R305) -/

theorem not_mem_take_allRegs (n : Fin 15) : Reg.r n ∉ allRegs.take n.val := by
  revert n
  decide

theorem slotOf_eq_zero_of_head? {list : BitVec 16} {n : Fin 15} (listed : list.getLsbD n.val = true)
    (head : (listedRegs list).head? = some (.r n)) : slotOf list n.val = 0 := by
  obtain ⟨rest, split⟩ := listedRegs_split (r := .r n) listed
  have notBelow := not_mem_take_allRegs n
  rw [← length_listedBelow list (by omega), List.length_eq_zero_iff]
  cases below : listedBelow list n.val with
  | nil => rfl
  | cons r others =>
    rw [split, regNumber, below] at head
    have isHead : r = .r n := Option.some.inj head
    have mem : r ∈ listedBelow list n.val := by rw [below]; exact List.mem_cons_self
    rw [isHead] at mem
    exact absurd (List.mem_of_mem_filter mem) notBelow

/-- What of a block transfer's form its instruction fixes. -/
theorem blockForm_variants {i : Instr} {f : BlockForm} (form : blockForm? i = some f) :
    (f.restore = true → f.load = true) ∧ (f.bank = .userBank → f.wb = false ∧ f.restore = false) := by
  cases i <;> cases form <;> simp

theorem specialRefusal_of_restore {f : BlockForm} {s : State} (restore : f.restore = true) (none : ¬ HasSpsr s.cpsr.m) :
    specialRefusal f s = some .noSpsr := by
  rw [specialRefusal, if_pos restore, noSpsrRefusal]
  split
  · next e hm => exact absurd (hm ▸ hasSpsr_exc e) none
  · rfl

theorem specialRefusal_of_userBank {f : BlockForm} {s : State} (noRestore : f.restore = false)
    (bank : f.bank = .userBank)
    (none : ¬ HasSpsr s.cpsr.m) : specialRefusal f s = some .userBankInUserMode := by
  rw [specialRefusal, noRestore, if_neg Bool.false_ne_true, bank]
  simp only [userBankRefusal]
  split
  · next e hm => exact absurd (hm ▸ hasSpsr_exc e) none
  · rfl

theorem blockWraps_iff {start : Int} {n : Nat} : blockWraps start n = true ↔ start < 0 ∨ 2 ^ 32 < start + 4 * n := by
  simp [blockWraps]

section Refusals

variable {c : Cond} {mode : BlockMode} {wb : Bool} {n : Fin 15} {list : BitVec 16} {bank : BlockBank}
  {special : Option Refusal} {s : State} (passes : Passes c s) (base : blockRefusal (.r n) list s = none)
include passes base

section Loads

variable (finish : List (Reg × Word) → State → Result)

theorem loadBlock_of_overlap (listed : wb = true ∧ list.getLsbD n.val = true) :
    loadBlock c mode wb (.r n) list bank special s finish = .refused .writebackOverlap := by
  have overlap : (wb && (listedRegs list).contains (.r n)) = true := by simpa [mem_listedRegs_r] using listed
  unfold loadBlock
  rw [whenPassed_of_passes passes]
  simp only [base, if_pos overlap]

variable (free : ¬ (wb = true ∧ list.getLsbD n.val = true))
include free

theorem loadBlock_of_special {r : Refusal} (refused : special = some r) :
    loadBlock c mode wb (.r n) list bank special s finish = .refused r := by
  unfold loadBlock
  rw [whenPassed_of_passes passes]
  simp only [base, if_neg (loadBlock_noOverlap free), refused]

theorem loadBlock_of_wraps (allowed : special = none)
    (wraps : blockWraps (blockStart mode (readGeneral s n).toNat (slotOf list 16)) (slotOf list 16) = true) :
    loadBlock c mode wb (.r n) list bank special s finish = .refused .addressWrap := by
  unfold loadBlock
  rw [whenPassed_of_passes passes]
  simp only [base, if_neg (loadBlock_noOverlap free), allowed, length_listedRegs, if_pos wraps]

end Loads

section Stores

variable (finish : State → Result)

theorem storeBlock_of_overlap (listed : wb = true ∧ list.getLsbD n.val = true) (notFirst : slotOf list n.val ≠ 0) :
    storeBlock c mode wb (.r n) list bank special s finish = .refused .writebackOverlap := by
  obtain ⟨hwb, hlist⟩ := listed
  have head : (listedRegs list).head? ≠ some (.r n) := fun h => notFirst (slotOf_eq_zero_of_head? hlist h)
  have overlap : (wb && (listedRegs list).contains (.r n) && (listedRegs list).head? != some (.r n)) = true := by
    simpa [mem_listedRegs_r, hwb, hlist] using head
  unfold storeBlock
  rw [whenPassed_of_passes passes]
  simp only [base, if_pos overlap]

variable (free : ¬ ((wb = true ∧ list.getLsbD n.val = true) ∧ slotOf list n.val ≠ 0))
include free

theorem storeBlock_of_pcUnset (listed : list.getLsbD 15 = true) (unset : s.platform.pcStoreOffset = none) :
    storeBlock c mode wb (.r n) list bank special s finish = .refused .storeOfR15 := by
  have pcStored : (listsPc list && (storedPc s).isNone) = true := by simp [listsPc, listed, storedPc, unset]
  unfold storeBlock
  rw [whenPassed_of_passes passes]
  simp only [base, if_neg (storeBlock_noOverlap free), if_pos pcStored]

variable (pcSet : ¬ (list.getLsbD 15 = true ∧ s.platform.pcStoreOffset = none))
include pcSet

theorem storeBlock_of_special {r : Refusal} (refused : special = some r) :
    storeBlock c mode wb (.r n) list bank special s finish = .refused r := by
  unfold storeBlock
  rw [whenPassed_of_passes passes]
  simp only [base, if_neg (storeBlock_noOverlap free), if_neg (storeBlock_pcStored pcSet), refused]

theorem storeBlock_of_wraps (allowed : special = none)
    (wraps : blockWraps (blockStart mode (readGeneral s n).toNat (slotOf list 16)) (slotOf list 16) = true) :
    storeBlock c mode wb (.r n) list bank special s finish = .refused .addressWrap := by
  unfold storeBlock
  rw [whenPassed_of_passes passes]
  simp only [base, if_neg (storeBlock_noOverlap free), if_neg (storeBlock_pcStored pcSet), allowed, length_listedRegs,
    if_pos wraps]

end Stores

end Refusals

/-- Settles O50: the rows in the model's order, for the one LDM and the one STM all five forms are. -/
theorem blockRestrictions : Obligations.BlockRestrictions := by
  intro i f s form passes
  obtain ⟨loadOfRestore, ofUserBank⟩ := blockForm_variants form
  refine ⟨fun empty => exec_of_blockRefusal form passes (if_pos empty), fun notEmpty basePc => ?_,
    fun n hrn notEmpty aligned => ?_⟩
  · exact exec_of_blockRefusal form passes (by rw [blockRefusal, if_neg notEmpty, if_pos basePc])
  have base : blockRefusal (.r n) f.list s = none :=
    blockRefusal_eq_none.mpr ⟨notEmpty, Reg.noConfusion, wordAligned_iff.mpr aligned⟩
  have runLoad (load : f.load = true) := exec_of_loadBlockForm form load s
  have runStore (store : f.load = false) := exec_of_storeBlockForm form store s
  rw [hrn] at runLoad runStore
  refine ⟨fun load isListed => ?overlapLoad, fun store isListed notFirst => ?overlapStore,
    fun free ⟨store, listsPc, unset⟩ => ?pcUnset, fun restore free noSpsr => ?noSpsr,
    fun userBank pcSet noSpsr => ?userBank, fun free pcSet hasSpsr wraps => ?wraps⟩
  case overlapLoad =>
    obtain ⟨finish, run⟩ := runLoad load
    rw [run, loadBlock_of_overlap passes base finish isListed]
  case overlapStore =>
    obtain ⟨finish, run⟩ := runStore store
    rw [run, storeBlock_of_overlap passes base finish isListed notFirst]
  case pcUnset =>
    obtain ⟨finish, run⟩ := runStore store
    rw [run, storeBlock_of_pcUnset passes base finish free listsPc unset]
  case noSpsr =>
    obtain ⟨finish, run⟩ := runLoad (loadOfRestore restore)
    rw [run, loadBlock_of_special passes base finish free (specialRefusal_of_restore restore noSpsr)]
  case userBank =>
    obtain ⟨noWb, noRestore⟩ := ofUserBank userBank
    have special := specialRefusal_of_userBank noRestore userBank noSpsr
    cases load : f.load with
    | true =>
      obtain ⟨finish, run⟩ := runLoad load
      rw [run, loadBlock_of_special passes base finish (by simp [noWb]) special]
    | false =>
      obtain ⟨finish, run⟩ := runStore load
      rw [run, storeBlock_of_special passes base finish (by simp [noWb]) (fun h => pcSet ⟨load, h⟩) special]
  case wraps =>
    have special := specialRefusal_eq_none hasSpsr
    cases load : f.load with
    | true =>
      obtain ⟨finish, run⟩ := runLoad load
      rw [run, loadBlock_of_wraps passes base finish (fun h => free ⟨h, .inl load⟩) special (blockWraps_iff.mpr wraps)]
    | false =>
      obtain ⟨finish, run⟩ := runStore load
      rw [run, storeBlock_of_wraps passes base finish (fun ⟨h, first⟩ => free ⟨h, .inr first⟩)
        (fun h => pcSet ⟨load, h⟩) special (blockWraps_iff.mpr wraps)]

end Sys2Proof.Machine
end

section
/-! Written lines: constants, labels and each kind of line assemble exactly where the rules allow, to the
instruction the line means (30_encoding.md R121 to R125, R132 to R135). -/

namespace Sys2Proof.Machine

open Sys2Proof.Safety Sys2Proof.Laws

/-! ## Constants (30_encoding.md R121) -/

theorem getLsbD_rotateLeft (v : Word) {n k : Nat} (hn : n < 32) (hk : k < 32) :
    (rotateLeft v n).getLsbD k = v.getLsbD ((k + 32 - n) % 32) := by
  rw [rotateLeft, BitVec.getLsbD_or, BitVec.getLsbD_shiftLeft, BitVec.getLsbD_ushiftRight]
  by_cases low : k < n
  · rw [show (k + 32 - n) % 32 = 32 - n + k by omega]
    simp [low]
  · rw [show (k + 32 - n) % 32 = k - n by omega, v.getLsbD_of_ge (32 - n + k) (by omega)]
    simp [low, hk]

/-- Rotating left undoes the rotation of a constant. -/
theorem rotateLeft_eq_iff (v : Word) (rot : BitVec 4) (imm : BitVec 8) :
    immediate32 rot imm = v ↔ rotateLeft v (2 * rot.toNat) = imm.setWidth 32 := by
  have small : 2 * rot.toNat < 32 := by omega
  constructor
  · rintro rfl
    refine BitVec.eq_of_getLsbD_eq fun k hk => ?_
    rw [getLsbD_rotateLeft _ small hk, getLsbD_immediate32 _ _ (Nat.mod_lt _ (by decide))]
    congr 1
    omega
  · intro rotated
    refine BitVec.eq_of_getLsbD_eq fun k hk => ?_
    rw [getLsbD_immediate32 _ _ hk, ← rotated, getLsbD_rotateLeft _ small (Nat.mod_lt _ (by decide))]
    congr 1
    omega

/-- Fields give a constant exactly where rotating it left leaves eight bits, which are then the immediate field. -/
theorem immediate32_eq_iff (v : Word) (rot : BitVec 4) (imm : BitVec 8) :
    immediate32 rot imm = v ↔
      (rotateLeft v (2 * rot.toNat)).toNat < 256 ∧ imm = (rotateLeft v (2 * rot.toNat)).setWidth 8 := by
  rw [rotateLeft_eq_iff]
  constructor
  · intro rotated
    rw [rotated]
    exact ⟨by simp; omega, by simp⟩
  · rintro ⟨small, rfl⟩
    exact BitVec.eq_of_toNat_eq (by simp; omega)

/-- A constant's fields: the first rotation that leaves eight bits. -/
theorem assembleImmediate_eq_some {v : Word} {rot : BitVec 4} {imm : BitVec 8}
    (h : assembleImmediate v = some (rot, imm)) :
    immediate32 rot imm = v ∧ ∀ rot' imm', immediate32 rot' imm' = v → rot.toNat ≤ rot'.toNat := by
  obtain ⟨r, found, fields⟩ := Option.map_eq_some_iff.mp h
  obtain ⟨eightBits, mem, smaller⟩ := List.find?_range_eq_some.mp found
  obtain ⟨rfl, rfl⟩ := Prod.mk.inj fields
  have number : (BitVec.ofNat 4 r).toNat = r := by
    rw [BitVec.toNat_ofNat, Nat.mod_eq_of_lt (List.mem_range.mp mem)]
  rw [number]
  refine ⟨(immediate32_eq_iff _ _ _).mpr ?_, fun rot' imm' same => ?_⟩
  · rw [number]
    exact ⟨of_decide_eq_true eightBits, rfl⟩
  · by_contra lt
    have fails := smaller rot'.toNat (by omega)
    rw [decide_eq_true ((immediate32_eq_iff v rot' imm').mp same).1] at fails
    cases fails

theorem assembleImmediate_eq_none {v : Word} (h : assembleImmediate v = none) (rot : BitVec 4) (imm : BitVec 8) :
    immediate32 rot imm ≠ v := by
  intro same
  have fails := List.find?_eq_none.mp (Option.map_eq_none_iff.mp h) rot.toNat (List.mem_range.mpr rot.isLt)
  exact fails (decide_eq_true ((immediate32_eq_iff v rot imm).mp same).1)

theorem assembleImmediate_iff (v : Word) : (∃ p, assembleImmediate v = some p) ↔ ConstantWritable v := by
  constructor
  · rintro ⟨⟨rot, imm⟩, h⟩
    exact ⟨rot, imm, (assembleImmediate_eq_some h).1⟩
  · rintro ⟨rot, imm, same⟩
    exact Option.ne_none_iff_exists'.mp fun none => assembleImmediate_eq_none none rot imm same

/-! ## Labels (30_encoding.md R123) -/

/-- The distance between two word-aligned addresses is a number of words. -/
theorem labelDistance_mod_four {pc label : Word} (pcAligned : wordAligned pc = true)
    (labelAligned : wordAligned label = true) : labelDistance pc label % 4 = 0 := by
  rw [wordAligned_iff] at pcAligned labelAligned
  rw [labelDistance, BitVec.toInt_eq_toNat_bmod, BitVec.toNat_sub, BitVec.toNat_add, Int.bmod_def]
  simp only [BitVec.toNat_ofNat]
  omega

theorem assembleLabel_iff (pc label : Word) : (∃ imm, assembleLabel pc label = some imm) ↔
    wordAligned label = true ∧ -33554432 ≤ labelDistance pc label ∧ labelDistance pc label ≤ 33554428 := by
  unfold assembleLabel labelDistance
  dsimp only
  split <;> simp_all

/-- The offset of a label takes the branch to it. -/
theorem target_of_assembleLabel {pc label : Word} {imm : BitVec 24} (pcAligned : wordAligned pc = true)
    (h : assembleLabel pc label = some imm) : BitVec.ofInt 32 (pc.toNat + 8 + 4 * imm.toInt) = label := by
  obtain ⟨labelAligned, low, high⟩ := (assembleLabel_iff pc label).mp ⟨imm, h⟩
  have words := labelDistance_mod_four pcAligned labelAligned
  have field : imm = BitVec.ofInt 24 (labelDistance pc label / 4) := by
    unfold assembleLabel at h
    rw [if_pos ⟨labelAligned, low, high⟩] at h
    exact (Option.some.inj h).symm
  have offset : 4 * imm.toInt = labelDistance pc label := by
    rw [field, BitVec.toInt_ofInt_eq_self (by decide) (by omega) (by omega)]
    omega
  rw [offset, labelDistance, BitVec.ofInt_add, BitVec.ofInt_toInt, BitVec.ofInt_add]
  simp only [BitVec.ofInt_natCast, BitVec.ofNat_toNat, BitVec.setWidth_eq]
  rw [BitVec.add_comm]
  exact BitVec.sub_add_cancel _ _

/-! ## Operands (30_encoding.md R121, R122, R124) -/

theorem operand_assembles_iff (w : WrittenOperand2) : (∃ o, w.assemble = some o) ↔ OperandWritable w := by
  cases w with
  | constant v => simpa [WrittenOperand2.assemble, OperandWritable] using assembleImmediate_iff v
  | register rm sh => simpa [WrittenOperand2.assemble, OperandWritable] using shift_fields_iff sh
  | byRegister rm sh rs => exact ⟨fun _ => trivial, fun _ => ⟨_, rfl⟩⟩

theorem operandMeans_of_assemble {w : WrittenOperand2} {o : Operand2} (h : w.assemble = some o) : OperandMeans w o := by
  cases w with
  | constant v =>
    obtain ⟨⟨rot, imm⟩, fields, rfl⟩ := Option.map_eq_some_iff.mp h
    exact fun _ => (assembleImmediate_eq_some fields).1
  | register rm sh =>
    obtain ⟨p, fields, rfl⟩ := Option.map_eq_some_iff.mp h
    exact fun s => shiftByImm_of_fields fields (readReg s rm) s.cpsr.c
  | byRegister rm sh rs => exact (Option.some.inj h).symm

/-- The form of the data-processing instruction of an operation. -/
theorem dpForm_dataProcessingInstr (op : AluOp) (c : Cond) (sf : Bool) (rd rn : Reg) (o : Operand2) :
    dpForm? (dataProcessingInstr op c sf rd rn o) = some ⟨op, c, sf || isCompare op,
      if isCompare op then none else some rd, if isMove op then none else some rn, o⟩ := by
  cases op <;> cases o <;> cases sf <;> rfl

/-! ## Single transfers (30_encoding.md R124) -/

/-- A magnitude that fits its field is the offset of the field. -/
theorem setWidth_ofNat {w n : Nat} (fits : n < 2 ^ w) : (BitVec.ofNat w n).setWidth 32 = BitVec.ofNat 32 n :=
  BitVec.eq_of_toNat_eq (by simp [Nat.mod_eq_of_lt fits])

section TransferForms

variable (c : Cond) (up wb : Bool) (rd rn rm : Reg) (sh : Shift) (amt : BitVec 5)

/-- LDR and LDRB load, STR and STRB store. -/
def Mode1.loads (k : Mode1) : Bool := k == .ldr || k == .ldrb

def Mode1.size (k : Mode1) : Size := if k = .ldr ∨ k = .str then .word else .byte

def Mode2.loads (k : Mode2) : Bool := k == .ldrt || k == .ldrbt

def Mode2.size (k : Mode2) : Size := if k = .ldrt ∨ k = .strt then .word else .byte

def Mode3.loads (k : Mode3) : Bool := k != .strh

def Mode3.size (k : Mode3) : Size := if k = .ldrsb then .byte else .half

def Mode3.signed (k : Mode3) : Bool := k == .ldrsb || k == .ldrsh

/-- The form of a single transfer, a load's or a store's. -/
def transferForm? (load : Bool) (i : Instr) : Option TransferForm := if load then loadForm? i else storeForm? i

theorem Mode1.immediate_form (k : Mode1) (off : BitVec 12) : transferForm? k.loads (k.immediate c up wb rd rn off) =
    some ⟨c, k.size, false, false, .ofW wb, up, rd, rn, .imm (off.setWidth 32)⟩ := by
  cases k <;> rfl

theorem Mode1.immediatePost_form (k : Mode1) (off : BitVec 12) :
    transferForm? k.loads (k.immediatePost c up rd rn off) =
      some ⟨c, k.size, false, false, .postIndexed, up, rd, rn, .imm (off.setWidth 32)⟩ := by
  cases k <;> rfl

theorem Mode1.register_form (k : Mode1) : transferForm? k.loads (k.register c up wb rd rn rm sh amt) =
    some ⟨c, k.size, false, false, .ofW wb, up, rd, rn, .reg rm sh amt⟩ := by
  cases k <;> rfl

theorem Mode1.registerPost_form (k : Mode1) : transferForm? k.loads (k.registerPost c up rd rn rm sh amt) =
    some ⟨c, k.size, false, false, .postIndexed, up, rd, rn, .reg rm sh amt⟩ := by
  cases k <;> rfl

theorem Mode2.immediate_form (k : Mode2) (off : BitVec 12) : transferForm? k.loads (k.immediate c up rd rn off) =
    some ⟨c, k.size, false, true, .postIndexed, up, rd, rn, .imm (off.setWidth 32)⟩ := by
  cases k <;> rfl

theorem Mode2.register_form (k : Mode2) : transferForm? k.loads (k.register c up rd rn rm sh amt) =
    some ⟨c, k.size, false, true, .postIndexed, up, rd, rn, .reg rm sh amt⟩ := by
  cases k <;> rfl

theorem Mode3.immediate_form (k : Mode3) (off : BitVec 8) : transferForm? k.loads (k.immediate c up wb rd rn off) =
    some ⟨c, k.size, k.signed, false, .ofW wb, up, rd, rn, .imm (off.setWidth 32)⟩ := by
  cases k <;> rfl

theorem Mode3.immediatePost_form (k : Mode3) (off : BitVec 8) :
    transferForm? k.loads (k.immediatePost c up rd rn off) =
      some ⟨c, k.size, k.signed, false, .postIndexed, up, rd, rn, .imm (off.setWidth 32)⟩ := by
  cases k <;> rfl

theorem Mode3.register_form (k : Mode3) : transferForm? k.loads (k.register c up wb rd rn rm) =
    some ⟨c, k.size, k.signed, false, .ofW wb, up, rd, rn, .plainReg rm⟩ := by
  cases k <;> rfl

theorem Mode3.registerPost_form (k : Mode3) : transferForm? k.loads (k.registerPost c up rd rn rm) =
    some ⟨c, k.size, k.signed, false, .postIndexed, up, rd, rn, .plainReg rm⟩ := by
  cases k <;> rfl

end TransferForms

/-- A single transfer whose form has the written parts and the written offset means the line. -/
theorem transferMeans_of_form {load signed forceUser up : Bool} {size : Size} {c : Cond} {rd rn : Reg}
    {ix written : Indexing} {o : WrittenOffset} {off : Offset} {i : Instr}
    (form : transferForm? load i = some ⟨c, size, signed, forceUser, ix, up, rd, rn, off⟩) (sign : up = !minusWritten o)
    (value : ∀ s, offsetValue off s = offsetWritten o s) :
    TransferMeans load size signed forceUser c rd ⟨rn, written, o⟩ ix i :=
  ⟨_, form, rfl, rfl, rfl, rfl, rfl, rfl, rfl, sign, value⟩

theorem offsetValue_absent {w : Nat} (s : State) :
    offsetValue (.imm ((0#w).setWidth 32)) s = offsetWritten .absent s := by
  simp [offsetValue, offsetWritten]

theorem offsetValue_imm {w n : Nat} (fits : n < 2 ^ w) (minus : Bool) (s : State) :
    offsetValue (.imm ((BitVec.ofNat w n).setWidth 32)) s = offsetWritten (.imm minus n) s :=
  setWidth_ofNat fits

theorem offsetValue_reg {sh : WrittenShift} {p : Shift × BitVec 5} (fields : sh.fields = some p) (minus : Bool)
    (rm : Reg) (s : State) : offsetValue (.reg rm p.1 p.2) s = offsetWritten (.reg minus rm sh) s :=
  shiftByImm_of_fields fields _ _

section Mode1Lines

variable {k : Mode1} {c : Cond} {rd : Reg} {a : WrittenAddress} {i : Instr}

theorem assembleMode1_iff (pc : Word) : (∃ i, assembleMode1 k c rd a = some i) ↔ LineWritable pc (.mode1 k c rd a) := by
  obtain ⟨rn, ix, offset⟩ := a
  cases offset with
  | absent => simp [assembleMode1, LineWritable]
  | imm minus n =>
    simp only [assembleMode1, LineWritable]
    cases ix <;> simp <;> omega
  | reg minus rm sh => simp [assembleMode1, LineWritable, ← shift_fields_iff]

theorem lineMeans_of_assembleMode1 (pc : Word) (h : assembleMode1 k c rd a = some i) :
    LineMeans pc (.mode1 k c rd a) i := by
  obtain ⟨rn, ix, offset⟩ := a
  cases offset with
  | absent =>
    simp only [assembleMode1, Option.ite_none_right_eq_some, Option.some.injEq] at h
    obtain ⟨rfl, rfl⟩ := h
    exact transferMeans_of_form (k.immediate_form c true false rd rn _) rfl offsetValue_absent
  | imm minus n =>
    simp only [assembleMode1, Option.ite_none_right_eq_some] at h
    obtain ⟨fits, h⟩ := h
    cases ix with
    | plain =>
      obtain rfl := Option.some.inj h
      exact transferMeans_of_form (k.immediate_form c (!minus) false rd rn _) rfl (offsetValue_imm fits minus)
    | preIndexed =>
      obtain rfl := Option.some.inj h
      exact transferMeans_of_form (k.immediate_form c (!minus) true rd rn _) rfl (offsetValue_imm fits minus)
    | postIndexed =>
      obtain rfl := Option.some.inj h
      exact transferMeans_of_form (k.immediatePost_form c (!minus) rd rn _) rfl (offsetValue_imm fits minus)
  | reg minus rm sh =>
    obtain ⟨p, fields, rfl⟩ := Option.map_eq_some_iff.mp h
    have value := offsetValue_reg fields minus rm
    cases ix with
    | plain =>
      exact transferMeans_of_form (k.register_form c (!minus) false rd rn rm p.1 p.2) rfl value
    | preIndexed =>
      exact transferMeans_of_form (k.register_form c (!minus) true rd rn rm p.1 p.2) rfl value
    | postIndexed =>
      exact transferMeans_of_form (k.registerPost_form c (!minus) rd rn rm p.1 p.2) rfl value

end Mode1Lines

section Mode2Lines

variable {k : Mode2} {c : Cond} {rd : Reg} {a : WrittenAddress} {i : Instr}

theorem assembleMode2_iff (pc : Word) : (∃ i, assembleMode2 k c rd a = some i) ↔ LineWritable pc (.mode2 k c rd a) := by
  obtain ⟨rn, ix, offset⟩ := a
  cases offset with
  | absent => cases ix <;> simp [assembleMode2, LineWritable]
  | imm minus n =>
    cases ix <;> simp [assembleMode2, LineWritable]
    omega
  | reg minus rm sh => cases ix <;> simp [assembleMode2, LineWritable, ← shift_fields_iff]

theorem lineMeans_of_assembleMode2 (pc : Word) (h : assembleMode2 k c rd a = some i) :
    LineMeans pc (.mode2 k c rd a) i := by
  obtain ⟨rn, ix, offset⟩ := a
  cases offset with
  | absent =>
    cases ix with
    | plain =>
      obtain rfl := Option.some.inj h
      exact transferMeans_of_form (k.immediate_form c true rd rn _) rfl offsetValue_absent
    | preIndexed => cases h
    | postIndexed => cases h
  | imm minus n =>
    cases ix with
    | plain => cases h
    | preIndexed => cases h
    | postIndexed =>
      simp only [assembleMode2, Option.ite_none_right_eq_some, Option.some.injEq] at h
      obtain ⟨fits, rfl⟩ := h
      exact transferMeans_of_form (k.immediate_form c (!minus) rd rn _) rfl (offsetValue_imm fits minus)
  | reg minus rm sh =>
    cases ix with
    | plain => cases h
    | preIndexed => cases h
    | postIndexed =>
      obtain ⟨p, fields, rfl⟩ := Option.map_eq_some_iff.mp h
      exact transferMeans_of_form (k.register_form c (!minus) rd rn rm p.1 p.2) rfl (offsetValue_reg fields minus rm)

end Mode2Lines

section Mode3Lines

variable {k : Mode3} {c : Cond} {rd : Reg} {a : WrittenAddress} {i : Instr}

theorem assembleMode3_iff (pc : Word) : (∃ i, assembleMode3 k c rd a = some i) ↔ LineWritable pc (.mode3 k c rd a) := by
  obtain ⟨rn, ix, offset⟩ := a
  cases offset with
  | absent => simp [assembleMode3, LineWritable]
  | imm minus n =>
    simp only [assembleMode3, LineWritable]
    cases ix <;> simp <;> omega
  | reg minus rm sh =>
    simp only [assembleMode3, LineWritable]
    cases ix <;> simp

/-- A register offset without a shift is the register. -/
theorem offsetValue_plainReg (minus : Bool) (rm : Reg) (s : State) :
    offsetValue (.plainReg rm) s = offsetWritten (.reg minus rm .none) s :=
  offsetValue_reg (sh := .none) rfl minus rm s

theorem lineMeans_of_assembleMode3 (pc : Word) (h : assembleMode3 k c rd a = some i) :
    LineMeans pc (.mode3 k c rd a) i := by
  obtain ⟨rn, ix, offset⟩ := a
  cases offset with
  | absent =>
    simp only [assembleMode3, Option.ite_none_right_eq_some, Option.some.injEq] at h
    obtain ⟨rfl, rfl⟩ := h
    exact transferMeans_of_form (k.immediate_form c true false rd rn _) rfl offsetValue_absent
  | imm minus n =>
    simp only [assembleMode3, Option.ite_none_right_eq_some] at h
    obtain ⟨fits, h⟩ := h
    cases ix with
    | plain =>
      obtain rfl := Option.some.inj h
      exact transferMeans_of_form (k.immediate_form c (!minus) false rd rn _) rfl (offsetValue_imm fits minus)
    | preIndexed =>
      obtain rfl := Option.some.inj h
      exact transferMeans_of_form (k.immediate_form c (!minus) true rd rn _) rfl (offsetValue_imm fits minus)
    | postIndexed =>
      obtain rfl := Option.some.inj h
      exact transferMeans_of_form (k.immediatePost_form c (!minus) rd rn _) rfl (offsetValue_imm fits minus)
  | reg minus rm sh =>
    simp only [assembleMode3, Option.ite_none_right_eq_some] at h
    obtain ⟨rfl, h⟩ := h
    cases ix with
    | plain =>
      obtain rfl := Option.some.inj h
      exact transferMeans_of_form (k.register_form c (!minus) false rd rn rm) rfl (offsetValue_plainReg minus rm)
    | preIndexed =>
      obtain rfl := Option.some.inj h
      exact transferMeans_of_form (k.register_form c (!minus) true rd rn rm) rfl (offsetValue_plainReg minus rm)
    | postIndexed =>
      obtain rfl := Option.some.inj h
      exact transferMeans_of_form (k.registerPost_form c (!minus) rd rn rm) rfl (offsetValue_plainReg minus rm)

end Mode3Lines

/-! ## Block transfers (30_encoding.md R125, R134; 47_load_store_multiple.md R300) -/

theorem assembleList_pc (regs : List Reg) : (assembleList regs).getLsbD 15 = true ↔ .pc ∈ regs :=
  assembleList_getLsbD regs .pc

section BlockLines

variable {c : Cond} {m : WrittenMode} {wb : Bool} {rn : Reg} {regs : List Reg} {caret : Bool} {i : Instr}

theorem assembleLoadMultiple_iff (pc : Word) :
    (∃ i, assembleLoadMultiple c m.ofLoad wb rn (assembleList regs) caret = some i) ↔
      LineWritable pc (.loadMultiple c m wb rn regs caret) := by
  simp only [assembleLoadMultiple, LineWritable, ← assembleList_pc]
  generalize (assembleList regs).getLsbD 15 = listed
  cases caret <;> cases listed <;> cases wb <;> simp

theorem lineMeans_of_assembleLoadMultiple (pc : Word)
    (h : assembleLoadMultiple c m.ofLoad wb rn (assembleList regs) caret = some i) :
    LineMeans pc (.loadMultiple c m wb rn regs caret) i := by
  have named := assembleList_getLsbD regs
  have namesPc := assembleList_pc regs
  unfold assembleLoadMultiple at h
  split at h
  · next plain =>
    obtain rfl := Option.some.inj h
    exact ⟨_, rfl, rfl, rfl, rfl, rfl, rfl, named, by simp_all, by simp_all⟩
  · next hat =>
    split at h
    · next listed =>
      obtain rfl := Option.some.inj h
      exact ⟨_, rfl, rfl, rfl, rfl, rfl, rfl, named, by simp_all, by simp_all⟩
    · next notListed =>
      split at h
      · cases h
      · next noWb =>
        obtain rfl := Option.some.inj h
        exact ⟨_, rfl, rfl, rfl, rfl, (Bool.eq_false_iff.mpr noWb).symm, rfl, named, by simp_all, by simp_all⟩

theorem assembleStoreMultiple_iff (pc : Word) :
    (∃ i, assembleStoreMultiple c m.ofStore wb rn (assembleList regs) caret = some i) ↔
      LineWritable pc (.storeMultiple c m wb rn regs caret) := by
  simp only [assembleStoreMultiple, LineWritable]
  cases caret <;> cases wb <;> simp

theorem lineMeans_of_assembleStoreMultiple (pc : Word)
    (h : assembleStoreMultiple c m.ofStore wb rn (assembleList regs) caret = some i) :
    LineMeans pc (.storeMultiple c m wb rn regs caret) i := by
  have named := assembleList_getLsbD regs
  unfold assembleStoreMultiple at h
  split at h
  · next plain =>
    obtain rfl := Option.some.inj h
    exact ⟨_, rfl, rfl, rfl, rfl, rfl, rfl, named, by simp_all⟩
  · next hat =>
    split at h
    · cases h
    · next noWb =>
      obtain rfl := Option.some.inj h
      exact ⟨_, rfl, rfl, rfl, rfl, (Bool.eq_false_iff.mpr noWb).symm, rfl, named, by simp_all⟩

end BlockLines

/-! ## Every line (30_encoding.md R132) -/

theorem assembleFields_iff (fields : List PsrField) : (∃ mask, assembleFields fields = some mask) ↔ fields ≠ [] := by
  unfold assembleFields
  split <;> simp_all

/-- A line assembles exactly where it is allowed. -/
theorem assemble_iff_lineWritable (pc : Word) (line : Line) :
    (∃ i, assemble pc line = some i) ↔ LineWritable pc line := by
  cases line with
  | dataProcessing op c sf rd rn w => simpa [assemble, LineWritable] using operand_assembles_iff w
  | msrRegister spsr c fields rm => simpa [assemble, LineWritable] using assembleFields_iff fields
  | msrImmediate spsr c v => simpa [assemble, LineWritable] using assembleImmediate_iff v
  | branch link c label => simpa [assemble, LineWritable] using assembleLabel_iff pc label
  | mode1 k c rd a => exact assembleMode1_iff pc
  | mode2 k c rd a => exact assembleMode2_iff pc
  | mode3 k c rd a => exact assembleMode3_iff pc
  | loadMultiple c m wb rn regs caret => exact assembleLoadMultiple_iff pc
  | storeMultiple c m wb rn regs caret => exact assembleStoreMultiple_iff pc
  | plain i => simp [assemble, LineWritable]

/-- At a word-aligned address, what is assembled is what the line says. -/
theorem lineMeans_of_assemble {pc : Word} {line : Line} {i : Instr} (aligned : wordAligned pc = true)
    (h : assemble pc line = some i) : LineMeans pc line i := by
  cases line with
  | dataProcessing op c sf rd rn w =>
    obtain ⟨o, operand, rfl⟩ := Option.map_eq_some_iff.mp h
    exact ⟨_, dpForm_dataProcessingInstr op c sf rd rn o, rfl, rfl, rfl, rfl, rfl, operandMeans_of_assemble operand⟩
  | msrRegister spsr c fields rm =>
    obtain ⟨mask, letters, rfl⟩ := Option.map_eq_some_iff.mp h
    exact ⟨mask, rfl, assembleFields_getLsbD letters⟩
  | msrImmediate spsr c v =>
    obtain ⟨⟨rot, imm⟩, fields, rfl⟩ := Option.map_eq_some_iff.mp h
    exact ⟨rot, imm, rfl, (assembleImmediate_eq_some fields).1⟩
  | branch link c label =>
    obtain ⟨imm, offset, rfl⟩ := Option.map_eq_some_iff.mp h
    exact ⟨imm, rfl, target_of_assembleLabel aligned offset⟩
  | mode1 k c rd a => exact lineMeans_of_assembleMode1 pc h
  | mode2 k c rd a => exact lineMeans_of_assembleMode2 pc h
  | mode3 k c rd a => exact lineMeans_of_assembleMode3 pc h
  | loadMultiple c m wb rn regs caret => exact lineMeans_of_assembleLoadMultiple pc h
  | storeMultiple c m wb rn regs caret => exact lineMeans_of_assembleStoreMultiple pc h
  | plain j =>
    simp only [assemble, Option.ite_none_right_eq_some, Option.some.injEq] at h
    exact h.2.symm

/-! ## What a line assembles to can be encoded and has a mnemonic (30_encoding.md R131, R132) -/

/-- The instruction has an encoding and a mnemonic. -/
def Writable (i : Instr) : Prop := WellFormed i = true ∧ (mnemonicOf i).isSome = true

theorem writable_of_dpForm {i : Instr} {f : DpForm} (form : dpForm? i = some f) : Writable i := by
  cases i <;> cases form <;> exact ⟨rfl, rfl⟩

theorem writable_of_transferForm {load : Bool} {i : Instr} {f : TransferForm} (form : transferForm? load i = some f) :
    Writable i := by
  cases load <;> cases i <;> cases form <;> exact ⟨rfl, rfl⟩

theorem writable_of_transferMeans {load signed forceUser : Bool} {size : Size} {c : Cond} {rd : Reg}
    {a : WrittenAddress} {ix : Indexing} {i : Instr} (h : TransferMeans load size signed forceUser c rd a ix i) :
    Writable i := by
  obtain ⟨f, form, -⟩ := h
  exact writable_of_transferForm form

theorem writable_of_isPlain {i : Instr} (plain : isPlain i = true) : Writable i := by
  cases i <;> simp_all [isPlain, Writable, WellFormed, mnemonicOf]

theorem writable_of_assembleLoadMultiple {c : Cond} {m : BlockMode} {wb : Bool} {rn : Reg} {list : BitVec 16}
    {caret : Bool} {i : Instr} (h : assembleLoadMultiple c m wb rn list caret = some i) : Writable i := by
  unfold assembleLoadMultiple at h
  split at h
  · obtain rfl := Option.some.inj h
    exact ⟨rfl, rfl⟩
  · split at h
    · next listed =>
      obtain rfl := Option.some.inj h
      exact ⟨listed, rfl⟩
    · next notListed =>
      split at h
      · cases h
      · obtain rfl := Option.some.inj h
        exact ⟨by rw [WellFormed, listsPc, Bool.eq_false_iff.mpr notListed]; rfl, rfl⟩

theorem writable_of_assembleStoreMultiple {c : Cond} {m : BlockMode} {wb : Bool} {rn : Reg} {list : BitVec 16}
    {caret : Bool} {i : Instr} (h : assembleStoreMultiple c m wb rn list caret = some i) : Writable i := by
  unfold assembleStoreMultiple at h
  split at h
  · obtain rfl := Option.some.inj h
    exact ⟨rfl, rfl⟩
  · split at h
    · cases h
    · obtain rfl := Option.some.inj h
      exact ⟨rfl, rfl⟩

theorem writable_of_assemble {pc : Word} {line : Line} {i : Instr} (h : assemble pc line = some i) : Writable i := by
  cases line with
  | dataProcessing op c sf rd rn w =>
    obtain ⟨o, -, rfl⟩ := Option.map_eq_some_iff.mp h
    exact writable_of_dpForm (dpForm_dataProcessingInstr op c sf rd rn o)
  | msrRegister spsr c fields rm =>
    obtain ⟨mask, -, rfl⟩ := Option.map_eq_some_iff.mp h
    cases spsr <;> exact ⟨rfl, rfl⟩
  | msrImmediate spsr c v =>
    obtain ⟨p, -, rfl⟩ := Option.map_eq_some_iff.mp h
    cases spsr <;> exact ⟨rfl, rfl⟩
  | branch link c label =>
    obtain ⟨imm, -, rfl⟩ := Option.map_eq_some_iff.mp h
    cases link <;> exact ⟨rfl, rfl⟩
  | mode1 k c rd a => exact writable_of_transferMeans (lineMeans_of_assembleMode1 pc h)
  | mode2 k c rd a => exact writable_of_transferMeans (lineMeans_of_assembleMode2 pc h)
  | mode3 k c rd a => exact writable_of_transferMeans (lineMeans_of_assembleMode3 pc h)
  | loadMultiple c m wb rn regs caret => exact writable_of_assembleLoadMultiple h
  | storeMultiple c m wb rn regs caret => exact writable_of_assembleStoreMultiple h
  | plain j =>
    simp only [assemble, Option.ite_none_right_eq_some, Option.some.injEq] at h
    obtain ⟨plain, rfl⟩ := h
    exact writable_of_isPlain plain

/-! ## The statement -/

/-- A B line goes to its label; a BL line leaves its link as well. -/
theorem exec_assembled_branch {s : State} {c : Cond} {label : Word} (passes : Passes c s)
    (aligned : wordAligned s.pc = true) (inRange : LineWritable s.pc (.branch false c label)) :
    (∃ i, assemble s.pc (.branch false c label) = some i ∧ exec i s = .next { s with pc := label }) ∧
    (HasNext s → ∃ i, assemble s.pc (.branch true c label) = some i ∧ exec i s = .next { s with
      regs := s.regs.set (physReg s.cpsr.m 14) (s.pc + 4#32)
      pc := label }) := by
  obtain ⟨imm, offset⟩ := (assembleLabel_iff s.pc label).mpr inRange
  have target : branchTarget imm s = label := by
    rw [branchTarget_eq_ofInt, target_of_assembleLabel aligned offset]
  refine ⟨⟨.b c imm, by simp [assemble, offset], ?_⟩, fun hasNext => ⟨.bl c imm, by simp [assemble, offset], ?_⟩⟩
  · rw [exec_b passes, target]
  · rw [exec_bl_of_hasNext passes imm hasNext, target]
    rfl

/-- Settles O6: constants by their first rotation, branches by their offset, every line by its kind. -/
theorem assembledLinesMeanWhatIsWritten : Obligations.AssembledLinesMeanWhatIsWritten :=
  ⟨fun _ _ _ => assembleImmediate_eq_some, fun _ => assembleImmediate_eq_none,
    fun _ _ _ passes aligned labelAligned low high => exec_assembled_branch passes aligned ⟨labelAligned, low, high⟩,
    fun pc line aligned => ⟨assemble_iff_lineWritable pc line, fun _ => lineMeans_of_assemble aligned⟩,
    fun _ _ _ => writable_of_assemble⟩

end Sys2Proof.Machine
end
